-- ==== Sys2Proof/Word.lean ====
section
/-! DEFINITION. The word types of the machine (00_scope.md R5, R6, R7): bytes, 16-bit words, register numbers. -/

namespace Sys2Proof

/-- A byte of memory, a general register or a timer: 8 unsigned bits (00_scope.md R5, R7). -/
abbrev Byte := BitVec 8

/-- A 16-bit word: an instruction, `I`, `pc`, a return-stack entry (00_scope.md R5). -/
abbrev Word := BitVec 16

/-- A general register's number, V0 to VF: every value of a 4-bit field names a register (10_state.md R21). -/
abbrev Reg := Fin 16

/-- Register 15, VF, the machine's one flag (10_state.md R23). -/
abbrev regF : Reg := 15

/-- Register 0, V0, implicit in BNNN, FX55 and FX65 (10_state.md R22). -/
abbrev reg0 : Reg := 0

end Sys2Proof
end

