-- ==== Sys2Proof/Syntax.lean ====
section
/-! DEFINITION. The instructions: one constructor per row of the opcode map (30_encoding.md R95), in the table's order.
Operand names are the spec's (30_encoding.md R91): `x`, `y` register numbers, `kk` a byte, `nnn` a 12-bit address, `n` a
sprite's row count. -/

namespace Sys2Proof

/-- The 34 instructions (30_encoding.md R95, R96). `shr` and `shl` keep the `y` field that the spec has them ignore
(R92), so that no bit of a word is lost. -/
inductive Instr where
  /-- 00E0 -/
  | cls
  /-- 00EE -/
  | ret
  /-- 1NNN -/
  | jp (nnn : BitVec 12)
  /-- 2NNN -/
  | call (nnn : BitVec 12)
  /-- 3Xkk -/
  | seByte (x : Reg) (kk : Byte)
  /-- 4Xkk -/
  | sneByte (x : Reg) (kk : Byte)
  /-- 5XY0 -/
  | seReg (x y : Reg)
  /-- 6Xkk -/
  | ldByte (x : Reg) (kk : Byte)
  /-- 7Xkk -/
  | addByte (x : Reg) (kk : Byte)
  /-- 8XY0 -/
  | ldReg (x y : Reg)
  /-- 8XY1 -/
  | orReg (x y : Reg)
  /-- 8XY2 -/
  | andReg (x y : Reg)
  /-- 8XY3 -/
  | xorReg (x y : Reg)
  /-- 8XY4 -/
  | addReg (x y : Reg)
  /-- 8XY5 -/
  | subReg (x y : Reg)
  /-- 8XY6 -/
  | shr (x y : Reg)
  /-- 8XY7 -/
  | subnReg (x y : Reg)
  /-- 8XYE -/
  | shl (x y : Reg)
  /-- 9XY0 -/
  | sneReg (x y : Reg)
  /-- ANNN -/
  | ldI (nnn : BitVec 12)
  /-- BNNN -/
  | jpV0 (nnn : BitVec 12)
  /-- CXkk -/
  | rnd (x : Reg) (kk : Byte)
  /-- DXYN; `n` is the sprite's row count, 0 to 15 in a well-formed instruction. -/
  | drw (x y : Reg) (n : Nat)
  /-- EX9E -/
  | skp (x : Reg)
  /-- EXA1 -/
  | sknp (x : Reg)
  /-- FX07 -/
  | ldVxDt (x : Reg)
  /-- FX0A -/
  | ldVxKey (x : Reg)
  /-- FX15 -/
  | ldDtVx (x : Reg)
  /-- FX18 -/
  | ldStVx (x : Reg)
  /-- FX1E -/
  | addI (x : Reg)
  /-- FX29 -/
  | ldFont (x : Reg)
  /-- FX33 -/
  | ldBcd (x : Reg)
  /-- FX55 -/
  | storeRegs (x : Reg)
  /-- FX65 -/
  | loadRegs (x : Reg)
  deriving DecidableEq, Repr

end Sys2Proof
end

