-- ==== Sys2Proof/Decode.lean ====
section
/-! DEFINITION. Decoding and encoding (30_encoding.md). The fields of R91, the two-level dispatch of R94 over the 34 rows
of R95, total on any word and any bytes, every word outside the table rejected by name (R97); then the encoder, written
from the formats of R92; then the opcode map itself as (mask, match) rows, which the laws hold the two against. -/

namespace Sys2Proof

/-- Why bytes are no instruction. -/
inductive Reject where
  /-- The word matches no row: the machine raises `UnknownOpcode(op)` (30_encoding.md R97). -/
  | unknownOpcode (op : Word)
  /-- Fewer than two bytes: no word at all (30_encoding.md R90). The machine's fetch never gives this. -/
  | tooFewBytes
  deriving DecidableEq, Repr

/-- `op[15:12]`, the primary opcode (30_encoding.md R91). -/
def opTop (op : Word) : BitVec 4 := op.extractLsb' 12 4

/-- `op[11:8]` as a register number (30_encoding.md R91, R93). -/
def opX (op : Word) : Reg := (op.extractLsb' 8 4).toFin

/-- `op[7:4]` as a register number (30_encoding.md R91, R93). -/
def opY (op : Word) : Reg := (op.extractLsb' 4 4).toFin

/-- `op[3:0]`, secondary opcode or sprite height (30_encoding.md R91). -/
def opN (op : Word) : BitVec 4 := op.extractLsb' 0 4

/-- `op[7:0]`, immediate byte or secondary opcode (30_encoding.md R91). -/
def opKk (op : Word) : Byte := op.extractLsb' 0 8

/-- `op[11:0]`, immediate address (30_encoding.md R91). -/
def opNnn (op : Word) : BitVec 12 := op.extractLsb' 0 12

/-- Family 0: the whole word must match (30_encoding.md R94, the spec's decision D24). -/
def decodeFamily0 (op : Word) : Except Reject Instr :=
  if op = 0x00E0 then .ok .cls
  else if op = 0x00EE then .ok .ret
  else .error (.unknownOpcode op)

/-- Families 5 and 9: the low nibble must be 0 (30_encoding.md R94; 90_conflicts.md C5). -/
def decodeLowZero (op : Word) (i : Instr) : Except Reject Instr :=
  if opN op = 0 then .ok i else .error (.unknownOpcode op)

/-- Family 8: the secondary opcode is the low nibble (30_encoding.md R94). -/
def decodeFamily8 (op : Word) : Except Reject Instr :=
  match (opN op).toNat with
  | 0x0 => .ok (.ldReg (opX op) (opY op))
  | 0x1 => .ok (.orReg (opX op) (opY op))
  | 0x2 => .ok (.andReg (opX op) (opY op))
  | 0x3 => .ok (.xorReg (opX op) (opY op))
  | 0x4 => .ok (.addReg (opX op) (opY op))
  | 0x5 => .ok (.subReg (opX op) (opY op))
  | 0x6 => .ok (.shr (opX op) (opY op))
  | 0x7 => .ok (.subnReg (opX op) (opY op))
  | 0xE => .ok (.shl (opX op) (opY op))
  | _ => .error (.unknownOpcode op)

/-- Family E: the secondary opcode is the low byte (30_encoding.md R94). -/
def decodeFamilyE (op : Word) : Except Reject Instr :=
  if opKk op = 0x9E then .ok (.skp (opX op))
  else if opKk op = 0xA1 then .ok (.sknp (opX op))
  else .error (.unknownOpcode op)

/-- Family F: the secondary opcode is the low byte (30_encoding.md R94). -/
def decodeFamilyF (op : Word) : Except Reject Instr :=
  if opKk op = 0x07 then .ok (.ldVxDt (opX op))
  else if opKk op = 0x0A then .ok (.ldVxKey (opX op))
  else if opKk op = 0x15 then .ok (.ldDtVx (opX op))
  else if opKk op = 0x18 then .ok (.ldStVx (opX op))
  else if opKk op = 0x1E then .ok (.addI (opX op))
  else if opKk op = 0x29 then .ok (.ldFont (opX op))
  else if opKk op = 0x33 then .ok (.ldBcd (opX op))
  else if opKk op = 0x55 then .ok (.storeRegs (opX op))
  else if opKk op = 0x65 then .ok (.loadRegs (opX op))
  else .error (.unknownOpcode op)

/-- Decode one fetched word: dispatch on the top nibble, then on the family's secondary selector
(30_encoding.md R94, R95, R97). -/
def decodeWord (op : Word) : Except Reject Instr :=
  match (opTop op).toNat with
  | 0x0 => decodeFamily0 op
  | 0x1 => .ok (.jp (opNnn op))
  | 0x2 => .ok (.call (opNnn op))
  | 0x3 => .ok (.seByte (opX op) (opKk op))
  | 0x4 => .ok (.sneByte (opX op) (opKk op))
  | 0x5 => decodeLowZero op (.seReg (opX op) (opY op))
  | 0x6 => .ok (.ldByte (opX op) (opKk op))
  | 0x7 => .ok (.addByte (opX op) (opKk op))
  | 0x8 => decodeFamily8 op
  | 0x9 => decodeLowZero op (.sneReg (opX op) (opY op))
  | 0xA => .ok (.ldI (opNnn op))
  | 0xB => .ok (.jpV0 (opNnn op))
  | 0xC => .ok (.rnd (opX op) (opKk op))
  | 0xD => .ok (.drw (opX op) (opY op) (opN op).toNat)
  | 0xE => decodeFamilyE op
  | 0xF => decodeFamilyF op
  | _ => .error (.unknownOpcode op)

/-- The word at the head of a byte stream, big-endian: high byte first (20_memory.md R64). -/
def wordOfBytes (hi lo : Byte) : Word := hi ++ lo

/-- Decode the instruction at the head of a byte stream and give the rest (30_encoding.md R90, R94). -/
def decode : List Byte → Except Reject (Instr × List Byte)
  | hi :: lo :: rest =>
    match decodeWord (wordOfBytes hi lo) with
    | .ok i => .ok (i, rest)
    | .error r => .error r
  | _ => .error .tooFewBytes

/-- A register number as its 4-bit field (30_encoding.md R91). -/
def regField (x : Reg) : BitVec 4 := BitVec.ofFin x

/-- Format A: top nibble and address (30_encoding.md R92). -/
def wordA (top : BitVec 4) (nnn : BitVec 12) : Word := top ++ nnn

/-- Format I, and format F with its literal low byte: top nibble, register, byte (30_encoding.md R92). -/
def wordI (top : BitVec 4) (x : Reg) (kk : Byte) : Word := top ++ regField x ++ kk

/-- Format R, and format D: top nibble, two registers, low nibble (30_encoding.md R92). -/
def wordR (top : BitVec 4) (x y : Reg) (n : BitVec 4) : Word := top ++ regField x ++ regField y ++ n

/-- The word of a well-formed instruction, from the formats of 30_encoding.md R92 and the rows of R95. -/
def encode : Instr → Word
  | .cls => 0x00E0
  | .ret => 0x00EE
  | .jp nnn => wordA 0x1 nnn
  | .call nnn => wordA 0x2 nnn
  | .seByte x kk => wordI 0x3 x kk
  | .sneByte x kk => wordI 0x4 x kk
  | .seReg x y => wordR 0x5 x y 0x0
  | .ldByte x kk => wordI 0x6 x kk
  | .addByte x kk => wordI 0x7 x kk
  | .ldReg x y => wordR 0x8 x y 0x0
  | .orReg x y => wordR 0x8 x y 0x1
  | .andReg x y => wordR 0x8 x y 0x2
  | .xorReg x y => wordR 0x8 x y 0x3
  | .addReg x y => wordR 0x8 x y 0x4
  | .subReg x y => wordR 0x8 x y 0x5
  | .shr x y => wordR 0x8 x y 0x6
  | .subnReg x y => wordR 0x8 x y 0x7
  | .shl x y => wordR 0x8 x y 0xE
  | .sneReg x y => wordR 0x9 x y 0x0
  | .ldI nnn => wordA 0xA nnn
  | .jpV0 nnn => wordA 0xB nnn
  | .rnd x kk => wordI 0xC x kk
  | .drw x y n => wordR 0xD x y (BitVec.ofNat 4 n)
  | .skp x => wordI 0xE x 0x9E
  | .sknp x => wordI 0xE x 0xA1
  | .ldVxDt x => wordI 0xF x 0x07
  | .ldVxKey x => wordI 0xF x 0x0A
  | .ldDtVx x => wordI 0xF x 0x15
  | .ldStVx x => wordI 0xF x 0x18
  | .addI x => wordI 0xF x 0x1E
  | .ldFont x => wordI 0xF x 0x29
  | .ldBcd x => wordI 0xF x 0x33
  | .storeRegs x => wordI 0xF x 0x55
  | .loadRegs x => wordI 0xF x 0x65

/-- A word's two bytes as memory holds them, high byte at the lower address (20_memory.md R64). -/
def bytesOfWord (op : Word) : List Byte := [op.extractLsb' 8 8, op.extractLsb' 0 8]

/-- An instruction's two bytes as memory holds them. -/
def encodeBytes (i : Instr) : List Byte := bytesOfWord (encode i)

/-- One row of the opcode map: a word is the row's iff `op & mask = pattern` (30_encoding.md R94). -/
structure OpRow where
  mask : Word
  pattern : Word
  deriving DecidableEq, Repr

/-- The row of an instruction in the opcode map (30_encoding.md R95; opcode_table.json). -/
def Instr.row : Instr → OpRow
  | .cls => ⟨0xFFFF, 0x00E0⟩
  | .ret => ⟨0xFFFF, 0x00EE⟩
  | .jp _ => ⟨0xF000, 0x1000⟩
  | .call _ => ⟨0xF000, 0x2000⟩
  | .seByte _ _ => ⟨0xF000, 0x3000⟩
  | .sneByte _ _ => ⟨0xF000, 0x4000⟩
  | .seReg _ _ => ⟨0xF00F, 0x5000⟩
  | .ldByte _ _ => ⟨0xF000, 0x6000⟩
  | .addByte _ _ => ⟨0xF000, 0x7000⟩
  | .ldReg _ _ => ⟨0xF00F, 0x8000⟩
  | .orReg _ _ => ⟨0xF00F, 0x8001⟩
  | .andReg _ _ => ⟨0xF00F, 0x8002⟩
  | .xorReg _ _ => ⟨0xF00F, 0x8003⟩
  | .addReg _ _ => ⟨0xF00F, 0x8004⟩
  | .subReg _ _ => ⟨0xF00F, 0x8005⟩
  | .shr _ _ => ⟨0xF00F, 0x8006⟩
  | .subnReg _ _ => ⟨0xF00F, 0x8007⟩
  | .shl _ _ => ⟨0xF00F, 0x800E⟩
  | .sneReg _ _ => ⟨0xF00F, 0x9000⟩
  | .ldI _ => ⟨0xF000, 0xA000⟩
  | .jpV0 _ => ⟨0xF000, 0xB000⟩
  | .rnd _ _ => ⟨0xF000, 0xC000⟩
  | .drw _ _ _ => ⟨0xF000, 0xD000⟩
  | .skp _ => ⟨0xF0FF, 0xE09E⟩
  | .sknp _ => ⟨0xF0FF, 0xE0A1⟩
  | .ldVxDt _ => ⟨0xF0FF, 0xF007⟩
  | .ldVxKey _ => ⟨0xF0FF, 0xF00A⟩
  | .ldDtVx _ => ⟨0xF0FF, 0xF015⟩
  | .ldStVx _ => ⟨0xF0FF, 0xF018⟩
  | .addI _ => ⟨0xF0FF, 0xF01E⟩
  | .ldFont _ => ⟨0xF0FF, 0xF029⟩
  | .ldBcd _ => ⟨0xF0FF, 0xF033⟩
  | .storeRegs _ => ⟨0xF0FF, 0xF055⟩
  | .loadRegs _ => ⟨0xF0FF, 0xF065⟩

/-- Whether a word is of a row (30_encoding.md R94). -/
def OpRow.accepts (r : OpRow) (op : Word) : Bool := op &&& r.mask == r.pattern

/-- The instruction word the opcode table numbers as `w`: one 16-bit word, the bits above `nbits` zero. -/
def tableWord (nbits w : Nat) : Word := BitVec.ofNat 16 (w % 2 ^ nbits)

/-- The instruction the decoder reads from a table row's word, laid out in memory's byte order. -/
def decodeTableWord (nbits w : Nat) : Option Instr :=
  match decode (bytesOfWord (tableWord nbits w)) with
  | .ok (i, _) => some i
  | .error _ => none

end Sys2Proof
end

