-- ==== Sys2Proof/Config.lean ====
section
/-! DEFINITION. What an implementation fixes: the sizes of 00_scope.md R5, the OPEN parameters TICK and FONTSET with the
values State.reset gives them, and the free values a STEP's inputs are drawn from when the host has lined none up. -/

namespace Sys2Proof

/-- `MEM_SIZE`, main memory's bytes (00_scope.md R5; 20_memory.md R61). -/
def memSize : Nat := 4096

/-- `PROG_BASE`, where a program is loaded and starts (00_scope.md R5; 20_memory.md R62). -/
def progBase : Nat := 0x200

/-- `MAX_PROG`, the largest program: `MEM_SIZE - 0x200` (00_scope.md R5). -/
def maxProg : Nat := 3584

/-- The last legal value of pc (10_state.md R28). -/
def pcTop : Nat := 0xFFE

/-- The last address of main memory (20_memory.md R61). -/
def memTop : Nat := 0xFFF

/-- A length of 1/60 s: a positive natural (00_scope.md R5). Zero is no value of the type. -/
abbrev Tick := { n : Nat // 0 < n }

/-- The OPEN parameters of the machine that persist over a run (00_scope.md R5). They are held in State, where no step
writes them, so that a statement about every state is a statement about every TICK and every FONTSET. -/
structure Config where
  /-- `TICK`: the length of 1/60 s in units of `now`, a positive natural (00_scope.md R5; the spec's decision D11). -/
  tick : Tick
  /-- `FONTSET`: the 80 font bytes (00_scope.md R5; 20_memory.md R63; the spec's decision D19). -/
  fontset : Vector Byte 80
  deriving DecidableEq, Repr

/-- The font bytes of the digits 0 to 7 in 20_memory.md R63's default table.
PRESUMED (log 2): the table is general knowledge, not the source's; unsafe for a claim about glyph shapes. -/
def fontLow : List Byte :=
  [0xF0, 0x90, 0x90, 0x90, 0xF0] ++ [0x20, 0x60, 0x20, 0x20, 0x70] ++
  [0xF0, 0x10, 0xF0, 0x80, 0xF0] ++ [0xF0, 0x10, 0xF0, 0x10, 0xF0] ++
  [0x90, 0x90, 0xF0, 0x10, 0x10] ++ [0xF0, 0x80, 0xF0, 0x10, 0xF0] ++
  [0xF0, 0x80, 0xF0, 0x90, 0xF0] ++ [0xF0, 0x10, 0x20, 0x40, 0x40]

/-- The font bytes of the digits 8 to F in 20_memory.md R63's default table. PRESUMED (log 2), as `fontLow`. -/
def fontHigh : List Byte :=
  [0xF0, 0x90, 0xF0, 0x90, 0xF0] ++ [0xF0, 0x90, 0xF0, 0x10, 0xF0] ++
  [0xF0, 0x90, 0xF0, 0x90, 0x90] ++ [0xE0, 0x90, 0xE0, 0x90, 0xE0] ++
  [0xF0, 0x80, 0x80, 0x80, 0xF0] ++ [0xE0, 0x90, 0x90, 0x90, 0xE0] ++
  [0xF0, 0x80, 0xF0, 0x80, 0xF0] ++ [0xF0, 0x80, 0xF0, 0x80, 0x80]

/-- The parameters State.reset carries. `tick := 1` is a DESIGN CHOICE (log 1: the spec leaves TICK OPEN); the font is
PRESUMED (log 2: the spec's default table, which it marks as general knowledge). Both are unsafe for a claim about the
reset state alone; a claim about every state holds for every value. -/
def Config.standard : Config where
  tick := ⟨1, by decide⟩
  fontset := ⟨(fontLow ++ fontHigh).toArray, by decide⟩

/-- The inputs of one STEP, sampled at its start and constant during it (40_step_cycle.md R122; 20_memory.md R80). -/
structure StepInput where
  /-- `keys`: bit i is 1 iff key i is pressed in this STEP's snapshot. -/
  keys : BitVec 16
  /-- `now`: the monotonic time reading; TICK units are 1/60 s. -/
  now : Nat
  /-- `rnd`: this STEP's random byte, under no law (the spec's decision D12). -/
  rnd : Byte
  deriving DecidableEq, Repr

/-- FREE VALUE (log 3): the keypad snapshot of the n-th STEP, where the host has lined no input up. Any value
(93_implementation_defined.md U13). -/
opaque Config.freeKeys : Nat → BitVec 16

/-- FREE VALUE (log 3, log 8): the time reading of the n-th STEP, where the host has lined no input up
(93_implementation_defined.md U12). -/
opaque Config.freeNow : Nat → Nat

/-- FREE VALUE (log 3): the random byte of the n-th STEP, where the host has lined no input up. Any value
(93_implementation_defined.md U11). -/
opaque Config.freeRnd : Nat → Byte

end Sys2Proof
end

