-- ==== Sys2Proof/Machine/State.lean ====
section
/-! DEFINITION. The machine's state, whole and as plain data (10_state.md R20), the errors it raises, the model's own
faults and refusals, and the state after reset (10_state.md R43). -/

namespace Sys2Proof.Machine

/-- The closed list of errors (60_exceptions.md R240, R241). All six are the spec's; raising one is no fault of the
model: it is a NEXT state with `err` latched (log 6). -/
inductive Error where
  /-- Code 1, LOAD only: the program's length exceeds 3584 (60_exceptions.md R242). Never latched in `err`. -/
  | programTooLarge (length : Nat)
  /-- Code 2: STEP with nothing loaded (60_exceptions.md R243). -/
  | noProgramLoaded
  /-- Code 3: the fetched word is no instruction (60_exceptions.md R244). -/
  | unknownOpcode (op : Word)
  /-- Code 4: 2NNN with sp = 16 (60_exceptions.md R245). -/
  | stackOverflow
  /-- Code 5: 00EE with sp = 0 (60_exceptions.md R246). -/
  | stackUnderflow
  /-- Code 6: a data address above 0xFFF, or a next pc that is odd, below 0x200 or above 0xFFE (60_exceptions.md R247).
  The address is untruncated. -/
  | addressOverflow (a : Nat)
  deriving DecidableEq, Repr

/-- The one way a step of this model stops. -/
inductive Fault where
  /-- Raised by `step` when pc + 1 lies above 0xFFF: the word to fetch is not in memory. The spec says it never happens
  (40_step_cycle.md R126); only a state whose pc breaks 10_state.md R28 reaches it, and no step from a legal state gives
  one. Safe (log 7). -/
  | fetchAboveMemory (pc : Word)
  deriving DecidableEq, Repr

/-- What the model refuses. -/
inductive Refusal where
  /-- Raised by exec for an instruction that has no meaning yet; no arm does. Safe. -/
  | notModelled (mnemonic : String)
  deriving DecidableEq, Repr

/-- Main memory: (address, byte) pairs, addresses strictly rising, none equal to what an unlisted address reads as
(`Memory.wf` in Machine/Ops.lean; log 4). -/
abbrev Memory := List Host.Cell

/-- The framebuffer: 32 rows of 64 cells, `FB[y][x]` the cell at column x and row y (10_state.md R35). -/
abbrev FrameBuf := Vector (Vector Bool 64) 32

/-- What the host has lined up for the coming STEPs (40_step_cycle.md R122; the model's own, log 3). -/
structure HostSide where
  /-- The inputs of the coming STEPs, the next STEP's first; where none is left, the inputs are free values. -/
  inputs : List StepInput
  /-- How many STEPs have been issued: the counter the free values are drawn by. -/
  served : Nat
  deriving DecidableEq, Repr

/-- The whole state (10_state.md R20), then the model's own two fields. -/
structure State where
  /-- `Mem`, 4096 bytes (10_state.md R41). -/
  mem : Memory
  /-- `V0`..`VF` (10_state.md R21, R22). -/
  V : Vector Byte 16
  /-- The index register (10_state.md R25). -/
  I : Word
  /-- The program counter (10_state.md R27). -/
  pc : Word
  /-- The return-address stack (10_state.md R30). -/
  stack : Vector Word 16
  /-- The number of stack entries in use, 0 to 16 (10_state.md R31). -/
  sp : Fin 17
  /-- `delay_timer` (10_state.md R33). -/
  DT : Byte
  /-- `sound_timer` (10_state.md R34). -/
  ST : Byte
  /-- `dt_ref`, when DT was last written or decremented (10_state.md R39). -/
  dtRef : Nat
  /-- `st_ref`, when ST was last written or decremented (10_state.md R39). -/
  stRef : Nat
  /-- The framebuffer (10_state.md R35). -/
  FB : FrameBuf
  /-- True while waiting for a key (10_state.md R36). -/
  blocked : Bool
  /-- `key_reg`, the destination of the FX0A that blocked (10_state.md R37). -/
  keyReg : Reg
  /-- The fault latch (10_state.md R38). -/
  err : Option Error
  /-- Whether the last successful LOAD carried a byte (10_state.md R40). -/
  loaded : Bool
  /-- TICK and FONTSET: parameters, written by nothing (00_scope.md R5; logs 1 and 2). -/
  config : Config
  /-- The STEP inputs to come (40_step_cycle.md R122; log 3). -/
  host : HostSide
  deriving DecidableEq, Repr

/-- A step's outcome. -/
abbrev Result := Host.Outcome State Fault Refusal

/-- The state after power-on RESET, every field as 10_state.md R43 has it with L = 0 (40_step_cycle.md R134).
The parameters and the first STEP's inputs are the model's choice (logs 1, 2, 3). -/
def State.reset : State where
  mem := []
  V := Vector.replicate 16 0
  I := 0
  pc := 0x200
  stack := Vector.replicate 16 0
  sp := 0
  DT := 0
  ST := 0
  dtRef := 0
  stRef := 0
  FB := Vector.replicate 32 (Vector.replicate 64 false)
  blocked := false
  keyReg := 0
  err := none
  loaded := false
  config := Config.standard
  host := { inputs := [{ keys := 0, now := 0, rnd := 0 }], served := 0 }

end Sys2Proof.Machine
end

