-- ==== Sys2Proof/Machine/Ops.lean ====
section
/-! DEFINITION. The named operations over memory, registers, stack, framebuffer, timers and inputs; raising an error, the
machine's one exception entry (60_exceptions.md R250), and the pc check and commit around every instruction
(40_step_cycle.md R129, R130). -/

namespace Sys2Proof.Machine

/-! ### Main memory (20_memory.md) -/

/-- What an address that memory does not list reads as: its reset contents, the font at 0x000..0x04F and 0x00 elsewhere
(10_state.md R43; 20_memory.md R62; log 4). -/
def Memory.unlisted (c : Config) (a : Nat) : Byte :=
  if h : a < 80 then c.fontset[a] else 0

/-- `MemRead(a, 1)` (20_memory.md R77). -/
def Memory.read (c : Config) : Memory → Nat → Byte
  | [], a => Memory.unlisted c a
  | (k, v) :: m, a => if k = a then v else Memory.read c m a

/-- A memory without its entry at an address. -/
def Memory.without (m : Memory) (a : Nat) : Memory := m.filter fun e => decide (e.1 ≠ a)

/-- Put an entry before the first one of a higher address. -/
def Memory.insert (a : Nat) (b : Byte) : Memory → Memory
  | [] => [(a, b)]
  | (k, v) :: m => if a < k then (a, b) :: (k, v) :: m else (k, v) :: Memory.insert a b m

/-- `MemWrite(a, 1, b)` (20_memory.md R77), keeping the canonical form: writing an address's reset contents takes its
entry out. -/
def Memory.write (c : Config) (m : Memory) (a : Nat) (b : Byte) : Memory :=
  if b = Memory.unlisted c a then m.without a else Memory.insert a b (m.without a)

/-- Write bytes one after another at ascending addresses from `a` (20_memory.md R65). -/
def Memory.writeAll (c : Config) (m : Memory) (a : Nat) : List Byte → Memory
  | [] => m
  | b :: bs => Memory.writeAll c (Memory.write c m a b) (a + 1) bs

/-- The addresses of a memory rise strictly from above `low`. -/
def Memory.risingFrom (low : Nat) : Memory → Bool
  | [] => true
  | (k, _) :: m => decide (low ≤ k) && Memory.risingFrom (k + 1) m

/-- The canonical form: addresses strictly rising, all within 0x000..0xFFF (20_memory.md R61), no entry equal to what an
unlisted address reads as. -/
def Memory.wf (c : Config) (m : Memory) : Bool :=
  Memory.risingFrom 0 m && m.all fun e => decide (e.1 ≤ memTop) && decide (e.2 ≠ Memory.unlisted c e.1)

/-- The byte of main memory at an address (20_memory.md R77). -/
def State.byte (s : State) (a : Nat) : Byte := Memory.read s.config s.mem a

/-- Store one byte of main memory (20_memory.md R77). -/
def State.setByte (s : State) (a : Nat) (b : Byte) : State :=
  { s with mem := Memory.write s.config s.mem a b }

/-! ### Registers (10_state.md) -/

/-- Read a general register. No register is hard-wired (10_state.md R22). -/
def State.v (s : State) (x : Reg) : Byte := s.V[x.val]

/-- Write a general register (10_state.md R22). -/
def State.setV (s : State) (x : Reg) (b : Byte) : State := { s with V := s.V.set x.val b }

/-- Write the index register. -/
def State.setI (s : State) (a : Word) : State := { s with I := a }

/-- Write the program counter. -/
def State.setPc (s : State) (a : Word) : State := { s with pc := a }

/-! ### The return stack (20_memory.md R78) -/

/-- Push: write `Stack[sp]`, then increment sp. Asked only with sp below 16 (41_control_flow.md R143). -/
def State.push (s : State) (a : Word) (h : s.sp.val < 16) : State :=
  { s with stack := s.stack.set s.sp.val a h, sp := ⟨s.sp.val + 1, by omega⟩ }

/-- Pop: decrement sp; the entry is not cleared (10_state.md R32). Asked only with sp above 0 (41_control_flow.md R141). -/
def State.pop (s : State) : State :=
  { s with sp := ⟨s.sp.val - 1, by omega⟩ }

/-- The entry a pop gives, `Stack[sp - 1]` (20_memory.md R78). -/
def State.topOfStack (s : State) (h : 0 < s.sp.val) : Word := s.stack[s.sp.val - 1]'(by omega)

/-! ### The framebuffer (10_state.md R35) -/

/-- `FB[y][x]`; a coordinate outside the grid names no cell and reads false. -/
def FrameBuf.cell (fb : FrameBuf) (x y : Nat) : Bool :=
  if h : y < 32 ∧ x < 64 then (fb[y]'h.1)[x]'h.2 else false

/-- `FB[y][x] <- b`; a coordinate outside the grid names no cell and writes nothing. -/
def FrameBuf.setCell (fb : FrameBuf) (x y : Nat) (b : Bool) : FrameBuf :=
  if h : y < 32 ∧ x < 64 then fb.set y ((fb[y]'h.1).set x b h.2) h.1 else fb

/-- All 2048 cells 0 (43_display.md R190). -/
def FrameBuf.clear : FrameBuf := Vector.replicate 32 (Vector.replicate 64 false)

/-- Replace the framebuffer. -/
def State.setFB (s : State) (fb : FrameBuf) : State := { s with FB := fb }

/-! ### The STEP's inputs (40_step_cycle.md R122; log 3) -/

/-- The inputs of the STEP at hand: the first the host has lined up, or free values where there is none. -/
def State.input (s : State) : StepInput :=
  match s.host.inputs with
  | i :: _ => i
  | [] => { keys := Config.freeKeys s.host.served, now := Config.freeNow s.host.served,
            rnd := Config.freeRnd s.host.served }

/-- The STEP is over: its inputs are gone, the next STEP's come up. Every STEP takes one, whatever its result. -/
def State.takeInput (s : State) : State :=
  { s with host := { inputs := s.host.inputs.tail, served := s.host.served + 1 } }

/-! ### The keypad (44_keypad.md) -/

/-- `pressed(k)`: a key number above 15 is never pressed, and is not masked to 4 bits (44_keypad.md R200). -/
def pressed (keys : BitVec 16) (k : Byte) : Bool := decide (k.toNat ≤ 15) && keys.getLsbD k.toNat

/-- `lowest_key(keys)`: the smallest pressed key, or none (00_scope.md R8). -/
def lowestKey (keys : BitVec 16) : Option Reg := (List.finRange 16).find? fun k => keys.getLsbD k.val

/-- A key's number as the byte a register gets (40_step_cycle.md R124). -/
def keyByte (k : Reg) : Byte := BitVec.ofNat 8 k.val

/-- Enter WaitingForKey, remembering the destination (44_keypad.md R203). -/
def State.block (s : State) (x : Reg) : State := { s with blocked := true, keyReg := x }

/-- Back to Running (44_keypad.md R204). -/
def State.unblock (s : State) : State := { s with blocked := false }

/-- The blocked branch of a STEP (40_step_cycle.md R124): a pressed key unblocks and goes to the remembered register; with
none, nothing changes. No decay, no fetch, pc unchanged. -/
def State.pollKey (s : State) : State :=
  match lowestKey s.input.keys with
  | some k => (s.setV s.keyReg (keyByte k)).unblock
  | none => s

/-! ### The timers (45_timers.md) -/

/-- One timer's decay (45_timers.md R211): due when it is non-zero and `now - ref >= TICK`, written here as
`ref + TICK <= now`, so that a `now` below the reference is no decrement (log 8). -/
def decayTimer (tick : Tick) (now : Nat) (t : Byte) (ref : Nat) : Byte × Nat :=
  if t ≠ 0 ∧ ref + tick.val ≤ now then (t - 1, now) else (t, ref)

/-- Phase 4 of a STEP: both timers decay, each by its own reference (45_timers.md R211). -/
def State.decay (s : State) : State :=
  { s with
    DT := (decayTimer s.config.tick s.input.now s.DT s.dtRef).1
    dtRef := (decayTimer s.config.tick s.input.now s.DT s.dtRef).2
    ST := (decayTimer s.config.tick s.input.now s.ST s.stRef).1
    stRef := (decayTimer s.config.tick s.input.now s.ST s.stRef).2 }

/-- Write the delay timer and restart its reference (45_timers.md R213). -/
def State.setDT (s : State) (b : Byte) : State := { s with DT := b, dtRef := s.input.now }

/-- Write the sound timer and restart its reference (45_timers.md R214). -/
def State.setST (s : State) (b : Byte) : State := { s with ST := b, stRef := s.input.now }

/-! ### Raising an error, the pc check, the commit -/

/-- `Error.code`, as the spec numbers the errors (60_exceptions.md R241; its decision D17). -/
def Error.code : Error → Nat
  | .programTooLarge _ => 1
  | .noProgramLoaded => 2
  | .unknownOpcode _ => 3
  | .stackOverflow => 4
  | .stackUnderflow => 5
  | .addressOverflow _ => 6

/-- `Error.info`, the payload beside the code (60_exceptions.md R241). -/
def Error.info : Error → Nat
  | .programTooLarge length => length
  | .noProgramLoaded => 0
  | .unknownOpcode op => op.toNat
  | .stackOverflow => 0
  | .stackUnderflow => 0
  | .addressOverflow a => a

/-- TAKING AN EXCEPTION, the one shared operation: the error is latched and nothing else changes; control goes nowhere
(60_exceptions.md R250, R251). There is no return from one (R252). -/
def State.raise (s : State) (e : Error) : State := { s with err := some e }

/-- A legal pc: even and within 0x200..0xFFE (10_state.md R28). -/
def pcLegal (a : Nat) : Bool := decide (a % 2 = 0) && decide (progBase ≤ a) && decide (a ≤ pcTop)

/-- Phase 8, the pc check, after an instruction that began in `s` and tentatively made `t`: a legal next pc is taken with
all of `t`; another raises with none of it (40_step_cycle.md R129, R130). The target is untruncated. -/
def retire (s t : State) (nextPc : Nat) : Result :=
  if pcLegal nextPc then .next (t.setPc (BitVec.ofNat 16 nextPc))
  else .next (s.raise (.addressOverflow nextPc))

/-- Retire to the following instruction: `next_pc = pc + 2` (40_step_cycle.md R128). -/
def advance (s t : State) : Result := retire s t (s.pc.toNat + 2)

/-- An instruction's own check of the highest address it uses, before anything is read or written (20_memory.md R67). -/
def withinMemory (s : State) (last : Nat) (ok : Result) : Result :=
  if last ≤ memTop then ok else .next (s.raise (.addressOverflow last))

/-- Phase 9 for a STEP that began in `s` and whose phases 4 to 8 gave `t`: where they raised, only the error stays and the
timers keep their pre-STEP values; else all of `t` does (40_step_cycle.md R130; 60_exceptions.md R251). -/
def State.settle (s t : State) : State :=
  match t.err with
  | some e => s.raise e
  | none => t

/-- The STEP's result out of what its instruction gave, its inputs taken. -/
def commit (s : State) : Result → Result
  | .next t => .next (s.settle t).takeInput
  | .fault r => .fault r
  | .refused r => .refused r

/-! ### Fetch -/

/-- `MemRead(pc, 2)`, big-endian (20_memory.md R64; 40_step_cycle.md R126); none where pc + 1 lies above 0xFFF, which no
legal pc does (log 7). -/
def State.fetch (s : State) : Option Word :=
  if s.pc.toNat + 1 ≤ memTop then some (wordOfBytes (s.byte s.pc.toNat) (s.byte (s.pc.toNat + 1))) else none

end Sys2Proof.Machine
end

