-- ==== Sys2Proof/Machine/Operands.lean ====
section
/-! DEFINITION. The operand forms: register and byte operands need nothing but `State.v`; here stand the address forms
(30_encoding.md R93), the one data addressing mode (46_index_memory.md R227), the register ranges of FX55 and FX65, and
the decimal digits of FX33. -/

namespace Sys2Proof.Machine

/-- `NNN` as a pc target, zero-extended (30_encoding.md R93). -/
def addrTarget (nnn : BitVec 12) : Nat := nnn.toNat

/-- `NNN` as a value of `I`, zero-extended to 16 bits (46_index_memory.md R220). -/
def addrWord (nnn : BitVec 12) : Word := nnn.zeroExtend 16

/-- The effective address of the k-th byte an instruction moves, `I + k`, an unbounded number (46_index_memory.md R227). -/
def State.indexed (s : State) (k : Nat) : Nat := s.I.toNat + k

/-- The registers V0..Vx in order, the operand list of FX55 and FX65 (46_index_memory.md R224, R225). -/
def regsThrough (x : Reg) : List Reg := (List.finRange 16).filter fun i => decide (i.val ≤ x.val)

/-- The decimal digits of a byte: hundreds, tens, ones, each a whole byte (46_index_memory.md R223). -/
def hundreds (v : Byte) : Byte := BitVec.ofNat 8 (v.toNat / 100)

/-- The tens digit (46_index_memory.md R223). -/
def tens (v : Byte) : Byte := BitVec.ofNat 8 (v.toNat / 10 % 10)

/-- The ones digit (46_index_memory.md R223). -/
def ones (v : Byte) : Byte := BitVec.ofNat 8 (v.toNat % 10)

/-- The address of the glyph of a digit: five bytes a glyph, the whole byte used, no mask (46_index_memory.md R222; the
spec's decision D28). -/
def glyphAddr (v : Byte) : Word := BitVec.ofNat 16 (v.toNat * 5)

/-- The start column of a sprite (43_display.md R191). -/
def spriteColumn (v : Byte) : Nat := v.toNat % 64

/-- The start row of a sprite (43_display.md R191). -/
def spriteRow (v : Byte) : Nat := v.toNat % 32

end Sys2Proof.Machine
end

