-- ==== Sys2Proof/Machine/Control.lean ====
section
/-! DEFINITION. Control transfer (41_control_flow.md): 00EE, 1NNN, 2NNN, BNNN and the four register skips. -/

namespace Sys2Proof.Machine

/-- A skip: `next_pc = pc + 4` where the condition holds, else `pc + 2`; the word passed over is not fetched
(41_control_flow.md R150). -/
def skipIf (s : State) (c : Bool) : Result := retire s s (s.pc.toNat + if c then 4 else 2)

/-- RET (41_control_flow.md R141). -/
def execRet (s : State) : Result :=
  if h : 0 < s.sp.val then retire s s.pop (s.topOfStack h).toNat
  else .next (s.raise .stackUnderflow)

/-- JP NNN (41_control_flow.md R142). -/
def execJp (nnn : BitVec 12) (s : State) : Result := retire s s (addrTarget nnn)

/-- CALL NNN: the entry holds the return address `pc + 2` (41_control_flow.md R143; the spec's decision D8). -/
def execCall (nnn : BitVec 12) (s : State) : Result :=
  if h : s.sp.val < 16 then retire s (s.push (s.pc + 2) h) (addrTarget nnn)
  else .next (s.raise .stackOverflow)

/-- SE Vx, kk (41_control_flow.md R144). -/
def execSeByte (x : Reg) (kk : Byte) (s : State) : Result := skipIf s (decide (s.v x = kk))

/-- SNE Vx, kk (41_control_flow.md R145). -/
def execSneByte (x : Reg) (kk : Byte) (s : State) : Result := skipIf s (decide (s.v x ≠ kk))

/-- SE Vx, Vy (41_control_flow.md R146). -/
def execSeReg (x y : Reg) (s : State) : Result := skipIf s (decide (s.v x = s.v y))

/-- SNE Vx, Vy (41_control_flow.md R147). -/
def execSneReg (x y : Reg) (s : State) : Result := skipIf s (decide (s.v x ≠ s.v y))

/-- JP V0, NNN: the sum is not reduced before the pc check (41_control_flow.md R148). -/
def execJpV0 (nnn : BitVec 12) (s : State) : Result := retire s s (addrTarget nnn + (s.v reg0).toNat)

end Sys2Proof.Machine
end

