-- ==== Sys2Proof/Machine/Flags.lean ====
section
/-! DEFINITION. The flag computations: the machine's one flag is register VF, written 0x00 or 0x01, last
(10_state.md R23, R24; 42_load_alu.md R173). -/

namespace Sys2Proof.Machine

/-- A flag's byte: 0x01 or 0x00 (10_state.md R23). -/
def flagByte (b : Bool) : Byte := if b then 1 else 0

/-- Carry out of an addition: the sum exceeds 255 (42_load_alu.md R167). -/
def carryOut (a b : Byte) : Bool := decide (a.toNat + b.toNat > 255)

/-- No borrow: minuend at least subtrahend, equality included (42_load_alu.md R168, R170; 90_conflicts.md C2). -/
def noBorrow (minuend subtrahend : Byte) : Bool := decide (minuend.toNat ≥ subtrahend.toNat)

/-- The bit a right shift drops (42_load_alu.md R169). -/
def bitOutRight (a : Byte) : Bool := a.getLsbD 0

/-- The bit a left shift drops (42_load_alu.md R171). -/
def bitOutLeft (a : Byte) : Bool := a.getLsbD 7

/-- Write the flag register (10_state.md R23). -/
def State.setFlag (s : State) (b : Bool) : State := s.setV regF (flagByte b)

/-- Write a result and then the flag, in that order, so that with `x = 0xF` the flag is what remains
(00_scope.md R9; 42_load_alu.md R173). -/
def State.setResultAndFlag (s : State) (x : Reg) (result : Byte) (flag : Bool) : State :=
  (s.setV x result).setFlag flag

end Sys2Proof.Machine
end

