-- ==== Sys2Proof/Machine/Display.lean ====
section
/-! DEFINITION. The display instructions (43_display.md): 00E0 and DXYN. The sprite loops are R191's own. -/

namespace Sys2Proof.Machine

/-- CLS: VF is not written (43_display.md R190). -/
def execCls (s : State) : Result := advance s (s.setFB FrameBuf.clear)

/-- A drawing in progress: the framebuffer and whether a set sprite bit has met a set cell (43_display.md R191). -/
abbrev Drawing := FrameBuf × Bool

/-- One sprite pixel (43_display.md R191, R192): sprite column `c` of the byte `b` at screen column `x0 + c`, row `row`.
Beyond column 63 it is clipped; bit `7 - c` of the byte is drawn, the most significant leftmost; a 0 bit does nothing. -/
def drawPixel (x0 row : Nat) (b : Byte) (d : Drawing) (c : Nat) : Drawing :=
  if x0 + c > 63 then d
  else if b.getLsbD (7 - c) then
    (d.1.setCell (x0 + c) row (d.1.cell (x0 + c) row ^^ true), d.2 || d.1.cell (x0 + c) row)
  else d

/-- One sprite row (43_display.md R191): beyond row 31 it is clipped; else its eight columns, left to right. -/
def drawRow (s : State) (x0 y0 : Nat) (d : Drawing) (r : Nat) : Drawing :=
  if y0 + r > 31 then d
  else (List.range 8).foldl (drawPixel x0 (y0 + r) (s.byte (s.indexed r))) d

/-- The whole sprite, rows top to bottom, over the state's framebuffer and no collision yet (43_display.md R191). -/
def drawSprite (s : State) (x0 y0 n : Nat) : Drawing :=
  (List.range n).foldl (drawRow s x0 y0) (s.FB, false)

/-- DRW Vx, Vy, N (43_display.md R191 to R194): the bounds check covers all N bytes, clipped or not, and N = 0 cannot
raise; both coordinates are read before VF gets the collision. -/
def execDrw (x y : Reg) (n : Nat) (s : State) : Result :=
  let d := drawSprite s (spriteColumn (s.v x)) (spriteRow (s.v y)) n
  let done := advance s ((s.setFB d.1).setFlag d.2)
  if n = 0 then done else withinMemory s (s.indexed (n - 1)) done

end Sys2Proof.Machine
end

