-- ==== Sys2Proof/Machine/IndexMemory.lean ====
section
/-! DEFINITION. The index register and memory instructions (46_index_memory.md). Each checks the highest address it uses
before it reads or writes anything (20_memory.md R67); FX33, FX55 and FX65 leave `I` as it is (R226, R227). -/

namespace Sys2Proof.Machine

/-- LD I, NNN (46_index_memory.md R220). -/
def execLdI (nnn : BitVec 12) (s : State) : Result := advance s (s.setI (addrWord nnn))

/-- ADD I, Vx: a sum above 0xFFF raises; VF is not written (46_index_memory.md R221). -/
def execAddI (x : Reg) (s : State) : Result :=
  withinMemory s (s.indexed (s.v x).toNat)
    (advance s (s.setI (BitVec.ofNat 16 (s.indexed (s.v x).toNat))))

/-- LD F, Vx (46_index_memory.md R222). -/
def execLdFont (x : Reg) (s : State) : Result := advance s (s.setI (glyphAddr (s.v x)))

/-- LD B, Vx: three unpacked decimal digits at I, I+1, I+2 (46_index_memory.md R223). -/
def execLdBcd (x : Reg) (s : State) : Result :=
  withinMemory s (s.indexed 2)
    (advance s
      (((s.setByte (s.indexed 0) (hundreds (s.v x))).setByte (s.indexed 1) (tens (s.v x))).setByte (s.indexed 2)
        (ones (s.v x))))

/-- The loop of FX55: store V[i] at I + i for each register of the list (46_index_memory.md R224). -/
def storeLoop (s : State) (rs : List Reg) : State :=
  rs.foldl (fun t i => t.setByte (s.indexed i.val) (s.v i)) s

/-- The loop of FX65: load V[i] from I + i for each register of the list (46_index_memory.md R225). -/
def loadLoop (s : State) (rs : List Reg) : State :=
  rs.foldl (fun t i => t.setV i (s.byte (s.indexed i.val))) s

/-- LD [I], Vx: V0..Vx to Mem[I..I+x] (46_index_memory.md R224). -/
def execStoreRegs (x : Reg) (s : State) : Result :=
  withinMemory s (s.indexed x.val) (advance s (storeLoop s (regsThrough x)))

/-- LD Vx, [I]: Mem[I..I+x] to V0..Vx (46_index_memory.md R225). -/
def execLoadRegs (x : Reg) (s : State) : Result :=
  withinMemory s (s.indexed x.val) (advance s (loadLoop s (regsThrough x)))

end Sys2Proof.Machine
end

