-- ==== Sys2Proof/Machine/Keypad.lean ====
section
/-! DEFINITION. The keypad instructions (44_keypad.md): EX9E, EXA1 and FX0A, all on the STEP's one snapshot (R200). -/

namespace Sys2Proof.Machine

/-- SKP Vx (44_keypad.md R201). -/
def execSkp (x : Reg) (s : State) : Result := skipIf s (pressed s.input.keys (s.v x))

/-- SKNP Vx (44_keypad.md R202). -/
def execSknp (x : Reg) (s : State) : Result := skipIf s (!pressed s.input.keys (s.v x))

/-- LD Vx, K: a key already down is taken at once, the lowest first; with none the machine blocks. pc advances in both
cases (44_keypad.md R203; the spec's decision D9). -/
def execLdVxKey (x : Reg) (s : State) : Result :=
  match lowestKey s.input.keys with
  | some k => advance s (s.setV x (keyByte k))
  | none => advance s (s.block x)

end Sys2Proof.Machine
end

