-- ==== Sys2Proof/Machine/LoadAlu.lean ====
section
/-! DEFINITION. Register loads, arithmetic, logic, shifts and random (42_load_alu.md). Byte arithmetic wraps modulo 256
(R160); both operands are read before anything is written and the flag is written last (R173). -/

namespace Sys2Proof.Machine

/-- LD Vx, kk (42_load_alu.md R161). -/
def execLdByte (x : Reg) (kk : Byte) (s : State) : Result := advance s (s.setV x kk)

/-- ADD Vx, kk: VF is not written as a flag (42_load_alu.md R162). -/
def execAddByte (x : Reg) (kk : Byte) (s : State) : Result := advance s (s.setV x (s.v x + kk))

/-- LD Vx, Vy (42_load_alu.md R163). -/
def execLdReg (x y : Reg) (s : State) : Result := advance s (s.setV x (s.v y))

/-- OR Vx, Vy: VF is not written as a flag (42_load_alu.md R164). -/
def execOrReg (x y : Reg) (s : State) : Result := advance s (s.setV x (s.v x ||| s.v y))

/-- AND Vx, Vy: VF is not written as a flag (42_load_alu.md R165). -/
def execAndReg (x y : Reg) (s : State) : Result := advance s (s.setV x (s.v x &&& s.v y))

/-- XOR Vx, Vy: VF is not written as a flag (42_load_alu.md R166). -/
def execXorReg (x y : Reg) (s : State) : Result := advance s (s.setV x (s.v x ^^^ s.v y))

/-- ADD Vx, Vy: VF is the carry (42_load_alu.md R167). -/
def execAddReg (x y : Reg) (s : State) : Result :=
  advance s (s.setResultAndFlag x (s.v x + s.v y) (carryOut (s.v x) (s.v y)))

/-- SUB Vx, Vy: VF is 1 for no borrow (42_load_alu.md R168). -/
def execSubReg (x y : Reg) (s : State) : Result :=
  advance s (s.setResultAndFlag x (s.v x - s.v y) (noBorrow (s.v x) (s.v y)))

/-- SHR Vx, in place; the `y` field is ignored (42_load_alu.md R169). -/
def execShr (x _y : Reg) (s : State) : Result :=
  advance s (s.setResultAndFlag x (s.v x >>> 1) (bitOutRight (s.v x)))

/-- SUBN Vx, Vy: the minuend is Vy (42_load_alu.md R170). -/
def execSubnReg (x y : Reg) (s : State) : Result :=
  advance s (s.setResultAndFlag x (s.v y - s.v x) (noBorrow (s.v y) (s.v x)))

/-- SHL Vx, in place; the `y` field is ignored (42_load_alu.md R171). -/
def execShl (x _y : Reg) (s : State) : Result :=
  advance s (s.setResultAndFlag x (s.v x <<< 1) (bitOutLeft (s.v x)))

/-- RND Vx, kk: this STEP's random byte, any value (42_load_alu.md R172; log 3). -/
def execRnd (x : Reg) (kk : Byte) (s : State) : Result := advance s (s.setV x (s.input.rnd &&& kk))

end Sys2Proof.Machine
end

