-- ==== Sys2Proof/Machine/Timers.lean ====
section
/-! DEFINITION. The timer instructions (45_timers.md): FX07, FX15, FX18. They run on the state whose timers this STEP has
already decayed (40_step_cycle.md R128). -/

namespace Sys2Proof.Machine

/-- LD Vx, DT: the delay timer after this STEP's decay (45_timers.md R212). -/
def execLdVxDt (x : Reg) (s : State) : Result := advance s (s.setV x s.DT)

/-- LD DT, Vx: overrides this STEP's decay and restarts the reference (45_timers.md R213). -/
def execLdDtVx (x : Reg) (s : State) : Result := advance s (s.setDT (s.v x))

/-- LD ST, Vx (45_timers.md R214). -/
def execLdStVx (x : Reg) (s : State) : Result := advance s (s.setST (s.v x))

end Sys2Proof.Machine
end

