-- ==== Sys2Proof/Machine/Cycle.lean ====
section
/-! DEFINITION. One STEP transaction (40_step_cycle.md R123): the latched error, the no-program check, the blocked branch,
then decay, fetch, decode, execute, pc check and commit. Every STEP takes one set of inputs. -/

namespace Sys2Proof.Machine

/-- Phases 4 to 9 for a Running machine (40_step_cycle.md R123). Fetch and decode read nothing that decay changes, so they
stand before it here; a word that is no instruction raises with nothing decayed (R130). -/
def cycle (s : State) : Result :=
  match s.fetch with
  | none => .fault (.fetchAboveMemory s.pc)
  | some op =>
    match decodeWord op with
    | .ok i => commit s (exec i s.decay)
    | .error _ => .next (s.raise (.unknownOpcode op)).takeInput

/-- STEP, its phases in order (40_step_cycle.md R123). With an error latched nothing changes (R130; 60_exceptions.md
R252); with nothing loaded the error is NoProgramLoaded (R125); while blocked only the key check runs (R124). -/
def stepPhases (s : State) : Result :=
  match s.err with
  | some _ => .next s.takeInput
  | none =>
    if s.loaded then
      if s.blocked then .next s.pollKey.takeInput else cycle s
    else .next (s.raise .noProgramLoaded).takeInput

/-- `s` with one word stored at pc, high byte first (20_memory.md R64), counting as loaded, Running and without an error:
what a LOAD of the word would leave for the next STEP (log 9). -/
def State.placeWord (s : State) (op : Word) : State :=
  { s with
    mem := Memory.writeAll s.config s.mem s.pc.toNat (bytesOfWord op)
    loaded := true
    blocked := false
    err := none }

end Sys2Proof.Machine
end

