-- ==== Sys2Proof/Machine/Step.lean ====
section
/-! DEFINITION. One step of the machine is one STEP transaction (40_step_cycle.md R120, R123). -/

namespace Sys2Proof.Machine

/-- STEP on the inputs the state has at hand. -/
def step (s : State) : Host.Outcome State Fault Refusal := Sys2Proof.Machine.stepPhases s

/-- `s` with the instruction word that the opcode table numbers `w` placed where step fetches next (log 9). -/
def State.withFetchWord (s : State) (nbits w : Nat) : State := s.placeWord (tableWord nbits w)

end Sys2Proof.Machine
end

