-- ==== Sys2Proof/Machine/Transactions.lean ====
section
/-! DEFINITION. The host's four transactions (40_step_cycle.md R120): RESET, LOAD, STEP with its inputs given, FBREAD. The
parameters and the inputs the host has lined up are no state of the machine, and no transaction but STEP touches them
(log 10). -/

namespace Sys2Proof.Machine

/-- What a transaction asks (40_step_cycle.md R120). -/
inductive Transaction where
  | reset
  | load (program : List Byte)
  | step (inp : StepInput)
  | fbread
  deriving DecidableEq, Repr

/-- What a transaction answers (40_step_cycle.md R120). -/
inductive Response where
  /-- RESET and a successful LOAD or STEP. -/
  | ok
  /-- A LOAD or STEP that failed, with its typed error (60_exceptions.md R240). -/
  | error (e : Error)
  /-- FBREAD's 2048 cells. -/
  | cells (fb : List Bool)
  deriving DecidableEq, Repr

/-- RESET: every piece of state at its reset value (40_step_cycle.md R134; 10_state.md R43). -/
def State.powerOn (s : State) : State := { State.reset with config := s.config, host := s.host }

/-- The state a successful LOAD leaves: the reset state with the program at 0x200 and `loaded` telling whether it has a
byte (10_state.md R43; 40_step_cycle.md R121). -/
def State.loadedWith (s : State) (program : List Byte) : State :=
  { s.powerOn with
    mem := Memory.writeAll s.config [] progBase program
    loaded := decide (1 ≤ program.length) }

/-- LOAD: atomic, accepted in every state; more than 3584 bytes change nothing, not even `err`
(40_step_cycle.md R121; 60_exceptions.md R242). -/
def load (program : List Byte) (s : State) : State × Response :=
  if program.length > maxProg then (s, .error (.programTooLarge program.length))
  else (s.loadedWith program, .ok)

/-- STEP with its inputs given: they come before whatever the host has lined up (40_step_cycle.md R122). -/
def stepWith (inp : StepInput) (s : State) : Result :=
  step { s with host := { s.host with inputs := inp :: s.host.inputs } }

/-- A STEP's result, read from the state it leaves: Ok, or the error raised or replayed (40_step_cycle.md R122, R130). -/
def stepResponse (s : State) : Response :=
  match s.err with
  | some e => .error e
  | none => .ok

/-- FBREAD: element `64*y + x` is `FB[y][x]` (20_memory.md R74; 40_step_cycle.md R131). -/
def fbread (s : State) : List Bool := s.FB.toList.flatMap fun row => row.toList

/-- One transaction, run to completion (40_step_cycle.md R120). -/
def transact (t : Transaction) (s : State) : Host.Outcome (State × Response) Fault Refusal :=
  match t with
  | .reset => .next (s.powerOn, .ok)
  | .load program => .next (load program s)
  | .step inp =>
    match stepWith inp s with
    | .next s' => .next (s', stepResponse s')
    | .fault r => .fault r
    | .refused r => .refused r
  | .fbread => .next (s, .cells (fbread s))

end Sys2Proof.Machine
end

