-- ==== Sys2Proof/Safety.lean ====
section
/-! DEFINITION. What claims call a safe state: the invariant the spec gives the machine, the states a run goes through,
and the words claims about one instruction are made of: which parts of the state an instruction may change, and what it
does in the spec's own terms (numbers modulo 256, cells of the screen), not in the meanings' terms. -/

namespace Sys2Proof.Machine

/-- A legal pc: even and within 0x200..0xFFE (10_state.md R28). -/
abbrev LegalPc (a : Nat) : Prop := a % 2 = 0 ∧ 0x200 ≤ a ∧ a ≤ 0xFFE

/-- The machine's invariant. Every transaction keeps it; a statement that could fail only in a state no run reaches
assumes it. -/
structure Inv (s : State) : Prop where
  /-- Memory is in its canonical form and within 0x000..0xFFF (20_memory.md R61). -/
  mem_canonical : Memory.wf s.config s.mem = true
  /-- `I` is within 0x000..0xFFF (10_state.md R26). -/
  index_in_memory : s.I.toNat ≤ 0xFFF
  /-- pc is even and within 0x200..0xFFE (10_state.md R28). -/
  pc_legal : LegalPc s.pc.toNat
  /-- Every stack entry in use is even and within 0x202..0x1000 (10_state.md R32). -/
  stack_entries : ∀ k : Fin 16, k.val < s.sp.val →
    s.stack[k.val].toNat % 2 = 0 ∧ 0x202 ≤ s.stack[k.val].toNat ∧ s.stack[k.val].toNat ≤ 0x1000
  /-- A machine with no program is not waiting for a key (40_step_cycle.md R125). -/
  blocked_loaded : s.blocked = true → s.loaded = true
  /-- LOAD's error is never latched (40_step_cycle.md R121). -/
  err_of_step : ∀ n, s.err ≠ some (.programTooLarge n)
  /-- An error's payload is of 16 bits (60_exceptions.md R241). -/
  err_info : ∀ e, s.err = some e → e.info < 65536

/-- A machine in which a STEP runs an instruction: no error, a program, not waiting (40_step_cycle.md R123). -/
abbrev Running (s : State) : Prop := s.err = none ∧ s.loaded = true ∧ s.blocked = false

/-- The instruction a STEP of a Running machine decodes at pc (40_step_cycle.md R126, R127). -/
abbrev AtPc (s : State) (i : Instr) : Prop :=
  s.pc.toNat + 1 ≤ 0xFFF ∧ decodeWord (wordOfBytes (s.byte s.pc.toNat) (s.byte (s.pc.toNat + 1))) = .ok i

/-- `s'` is reached from `s` by some number of STEPs. -/
inductive Reach : State → State → Prop where
  | refl (s : State) : Reach s s
  | tail {s t u : State} : Reach s t → step t = .next u → Reach s u

/-- The parts of the state that claims compare (10_state.md R20; the model's own fields last). -/
inductive Part where
  | regs
  | index
  | pc
  | stack
  | delay
  | sound
  | screen
  | wait
  | error
  | loaded
  | memory
  | parameters
  | inputs
  deriving DecidableEq, Repr

/-- A part reads the same in both states: every register, every screen cell, every byte of memory by its own read. -/
def Unchanged (s t : State) : Part → Prop
  | .regs => ∀ r, t.v r = s.v r
  | .index => t.I = s.I
  | .pc => t.pc = s.pc
  | .stack => t.stack = s.stack ∧ t.sp = s.sp
  | .delay => t.DT = s.DT ∧ t.dtRef = s.dtRef
  | .sound => t.ST = s.ST ∧ t.stRef = s.stRef
  | .screen => ∀ x y, t.FB.cell x y = s.FB.cell x y
  | .wait => t.blocked = s.blocked ∧ t.keyReg = s.keyReg
  | .error => t.err = s.err
  | .loaded => t.loaded = s.loaded
  | .memory => ∀ a, t.byte a = s.byte a
  | .parameters => t.config = s.config
  | .inputs => t.host = s.host

/-- Every part but the named ones reads the same in both states: an instruction's frame. -/
def UnchangedBut (parts : List Part) (s t : State) : Prop := ∀ p, p ∉ parts → Unchanged s t p

/-- `i` completes: Vx gets `value`, pc moves on by 2, nothing else changes. -/
def WritesReg (i : Instr) (x : Reg) (value : Nat) (s : State) : Prop :=
  ∃ t, exec i s = .next t ∧ (t.v x).toNat = value ∧ (∀ r, r ≠ x → t.v r = s.v r) ∧
    t.pc.toNat = s.pc.toNat + 2 ∧ UnchangedBut [.regs, .pc] s t

/-- `i` completes: VF gets the flag whatever x is, Vx gets `value` where x is not F, pc moves on by 2, nothing else
changes. -/
def WritesRegAndFlag (i : Instr) (x : Reg) (value flag : Nat) (s : State) : Prop :=
  ∃ t, exec i s = .next t ∧ (t.v 15).toNat = flag ∧ (x ≠ 15 → (t.v x).toNat = value) ∧
    (∀ r, r ≠ x → r ≠ 15 → t.v r = s.v r) ∧ t.pc.toNat = s.pc.toNat + 2 ∧ UnchangedBut [.regs, .pc] s t

/-- `i` completes: `I` gets `value`, pc moves on by 2, nothing else changes. -/
def WritesIndex (i : Instr) (value : Nat) (s : State) : Prop :=
  ∃ t, exec i s = .next t ∧ t.I.toNat = value ∧ t.pc.toNat = s.pc.toNat + 2 ∧ UnchangedBut [.index, .pc] s t

/-- `i` completes: pc goes to `target`, nothing else changes. -/
def GoesTo (i : Instr) (target : Nat) (s : State) : Prop :=
  ∃ t, exec i s = .next t ∧ t.pc.toNat = target ∧ UnchangedBut [.pc] s t

/-- `i` raises `e`: the error is latched and nothing else changes, pc included (60_exceptions.md R250, R251). -/
def Raises (i : Instr) (e : Error) (s : State) : Prop :=
  ∃ t, exec i s = .next t ∧ t.err = some e ∧ UnchangedBut [.error] s t

/-- The sprite bit that falls on the screen cell (cx, cy), for an `n`-row sprite at `I` drawn at (x0, y0): none outside
the sprite's 8 columns and n rows, none outside the screen (43_display.md R191 to R193). -/
def spriteBit (s : State) (x0 y0 n cx cy : Nat) : Bool :=
  decide (cx < 64 ∧ cy < 32 ∧ x0 ≤ cx ∧ cx < x0 + 8 ∧ y0 ≤ cy ∧ cy < y0 + n) &&
    (s.byte (s.I.toNat + (cy - y0))).getLsbD (7 - (cx - x0))

/-- `i` goes to `target` where that is a legal pc, and raises AddressOverflow of it where it is not, nothing truncated
(40_step_cycle.md R129). -/
def Proceeds (i : Instr) (target : Nat) (s : State) : Prop :=
  (LegalPc target → GoesTo i target s) ∧ (¬ LegalPc target → Raises i (.addressOverflow target) s)

/-- `k` is the lowest pressed key of a snapshot (44_keypad.md R203). -/
abbrev LowestDown (keys : BitVec 16) (k : Reg) : Prop :=
  keys.getLsbD k.val = true ∧ ∀ j : Reg, j < k → keys.getLsbD j.val = false

/-- No key of a snapshot is pressed. -/
abbrev NoneDown (keys : BitVec 16) : Prop := ∀ k : Reg, keys.getLsbD k.val = false

/-- Key number `k`, a whole byte, is pressed in a snapshot: numbers above 15 never are (44_keypad.md R200). -/
abbrev Down (keys : BitVec 16) (k : Byte) : Prop := k.toNat ≤ 15 ∧ keys.getLsbD k.toNat = true

/-- Which registers an instruction may write: column V of the access matrix (10_state.md R44), VF for the six that set
the flag (R24). -/
def mayWrite : Instr → Reg → Prop
  | .cls, _ => False
  | .ret, _ => False
  | .jp _, _ => False
  | .call _, _ => False
  | .seByte _ _, _ => False
  | .sneByte _ _, _ => False
  | .seReg _ _, _ => False
  | .ldByte x _, r => r = x
  | .addByte x _, r => r = x
  | .ldReg x _, r => r = x
  | .orReg x _, r => r = x
  | .andReg x _, r => r = x
  | .xorReg x _, r => r = x
  | .addReg x _, r => r = x ∨ r = 15
  | .subReg x _, r => r = x ∨ r = 15
  | .shr x _, r => r = x ∨ r = 15
  | .subnReg x _, r => r = x ∨ r = 15
  | .shl x _, r => r = x ∨ r = 15
  | .sneReg _ _, _ => False
  | .ldI _, _ => False
  | .jpV0 _, _ => False
  | .rnd x _, r => r = x
  | .drw _ _ _, r => r = 15
  | .skp _, _ => False
  | .sknp _, _ => False
  | .ldVxDt x, r => r = x
  | .ldVxKey x, r => r = x
  | .ldDtVx _, _ => False
  | .ldStVx _, _ => False
  | .addI _, _ => False
  | .ldFont _, _ => False
  | .ldBcd _, _ => False
  | .storeRegs _, _ => False
  | .loadRegs x, r => r ≤ x

/-- `i` goes on to the next word in `s`: it is no jump, call or return, no skip that is taken, and its own check passes
(40_step_cycle.md R128, 41_control_flow.md R150; the checks are 20_memory.md R67's). -/
def GoesOn : Instr → State → Prop
  | .cls, _ => True
  | .ret, _ => False
  | .jp _, _ => False
  | .call _, _ => False
  | .seByte x kk, s => s.v x ≠ kk
  | .sneByte x kk, s => s.v x = kk
  | .seReg x y, s => s.v x ≠ s.v y
  | .ldByte _ _, _ => True
  | .addByte _ _, _ => True
  | .ldReg _ _, _ => True
  | .orReg _ _, _ => True
  | .andReg _ _, _ => True
  | .xorReg _ _, _ => True
  | .addReg _ _, _ => True
  | .subReg _ _, _ => True
  | .shr _ _, _ => True
  | .subnReg _ _, _ => True
  | .shl _ _, _ => True
  | .sneReg x y, s => s.v x = s.v y
  | .ldI _, _ => True
  | .jpV0 _, _ => False
  | .rnd _ _, _ => True
  | .drw _ _ n, s => 1 ≤ n → s.I.toNat + n - 1 ≤ 0xFFF
  | .skp x, s => ¬ Down s.input.keys (s.v x)
  | .sknp x, s => Down s.input.keys (s.v x)
  | .ldVxDt _, _ => True
  | .ldVxKey _, _ => True
  | .ldDtVx _, _ => True
  | .ldStVx _, _ => True
  | .addI x, s => s.I.toNat + (s.v x).toNat ≤ 0xFFF
  | .ldFont _, _ => True
  | .ldBcd _, s => s.I.toNat + 2 ≤ 0xFFF
  | .storeRegs x, s => s.I.toNat + x.val ≤ 0xFFF
  | .loadRegs x, s => s.I.toNat + x.val ≤ 0xFFF

/-- `t` is the machine that LOAD of `program` leaves of `s`: every piece of state at its reset value, the program at 0x200,
the font at 0 and zeros elsewhere (10_state.md R43, the spec's decisions D2, D3). RESET's is that of no bytes
(40_step_cycle.md R134, D1). The model's own fields are those of `s` (log 10). -/
structure FreshMachine (s : State) (program : List Byte) (t : State) : Prop where
  program_bytes : ∀ (k : Nat) (h : k < program.length), t.byte (0x200 + k) = program[k]
  font_bytes : ∀ (a : Nat) (h : a < 80), t.byte a = s.config.fontset[a]
  zero_bytes : ∀ a, 80 ≤ a → (a < 0x200 ∨ 0x200 + program.length ≤ a) → t.byte a = 0
  registers : ∀ r, t.v r = 0
  index : t.I = 0
  entry_point : t.pc = 0x200
  no_calls : t.sp = 0 ∧ ∀ k : Fin 16, t.stack[k.val] = 0
  timers : t.DT = 0 ∧ t.ST = 0 ∧ t.dtRef = 0 ∧ t.stRef = 0
  clear_screen : ∀ x y, t.FB.cell x y = false
  not_waiting : t.blocked = false ∧ t.keyReg = 0
  no_error : t.err = none
  is_loaded : t.loaded = true ↔ 1 ≤ program.length
  model_fields : Unchanged s t .parameters ∧ Unchanged s t .inputs

/-- The words 30_encoding.md R97 lists as unknown, family by family. -/
def UnknownWord (op : Word) : Prop :=
  let top := op.toNat / 0x1000
  let low := op.toNat % 0x10
  let kk := op.toNat % 0x100
  (top = 0x0 ∧ op.toNat ≠ 0x00E0 ∧ op.toNat ≠ 0x00EE) ∨
  (top = 0x5 ∧ low ≠ 0) ∨
  (top = 0x8 ∧ low ∈ [0x8, 0x9, 0xA, 0xB, 0xC, 0xD, 0xF]) ∨
  (top = 0x9 ∧ low ≠ 0) ∨
  (top = 0xE ∧ kk ∉ [0x9E, 0xA1]) ∨
  (top = 0xF ∧ kk ∉ [0x07, 0x0A, 0x15, 0x18, 0x1E, 0x29, 0x33, 0x55, 0x65])

end Sys2Proof.Machine
end

