-- ==== Sys2Proof/Certificates/Slice0/Obligations.lean ====
section
/-! DEFINITION. The statements for the provers. Instructions are stated on `exec`, the execute phase on a state whose
timers have decayed; the STEP around it has statements of its own. Where a statement rests on a decision of the spec
(92_eei_decisions.md D<n>) or of the model (log n), its docstring says so. -/

open Sys2Proof Sys2Proof.Machine

/-! ### Encoding -/

/-- Decoding an encoded well-formed instruction gives it back with every operand, whatever bytes follow
(30_encoding.md R91 to R95). -/
def Obligations.DecodeOfEncodeIsTheInstruction : Prop :=
  ∀ (i : Instr) (rest : List Byte), i.WellFormed → decode (encodeBytes i ++ rest) = .ok (i, rest)

/-- A word that decodes is the encoding of what it decodes to, bit for bit, and that is well formed
(30_encoding.md R91 to R95). -/
def Obligations.EncodeOfDecodeIsTheWord : Prop :=
  ∀ (op : Word) (i : Instr), decodeWord op = .ok i → i.WellFormed ∧ encode i = op

/-- The decoder's dispatch is the opcode map: a word is of a row iff it decodes to an instruction of that row
(30_encoding.md R94, the spec's decision D24). So no word is of two rows. -/
def Obligations.RowsDecideDecoding : Prop :=
  ∀ (op : Word) (i : Instr), i.row.accepts op = true ↔ ∃ j, decodeWord op = .ok j ∧ j.row = i.row

/-- The words the decoder rejects are the ones 30_encoding.md R97 lists, and it rejects each by its whole word. -/
def Obligations.UnknownWordsAreTheListedOnes : Prop :=
  ∀ op : Word, (UnknownWord op ↔ decodeWord op = .error (.unknownOpcode op)) ∧
    ∀ r, decodeWord op = .error r → r = .unknownOpcode op

/-- Words written out bit by bit from the patterns of 30_encoding.md R95 decode to the instructions they stand for. -/
def Obligations.WrittenOutWordsDecode : Prop :=
  decodeWord 0b0000000011100000#16 = .ok .cls ∧
  decodeWord 0b0010001000010000#16 = .ok (.call 0x210) ∧
  decodeWord 0b0011101001000010#16 = .ok (.seByte 0xA 0x42) ∧
  decodeWord 0b1000000100100101#16 = .ok (.subReg 1 2) ∧
  decodeWord 0b1101000100100101#16 = .ok (.drw 1 2 5) ∧
  decodeWord 0b1110010110011110#16 = .ok (.skp 5) ∧
  decodeWord 0b1111001100011000#16 = .ok (.ldStVx 3) ∧
  decodeWord 0b1111001101010101#16 = .ok (.storeRegs 3)

/-! ### The STEP -/

/-- A STEP of a Running machine runs the instruction its word decodes to, on the state with the timers decayed: where
that gives no error all of it is kept, where it raises only the error is (40_step_cycle.md R123, R126 to R128, and R130
with the spec's decision D4). -/
def Obligations.StepRunsTheDecodedInstruction : Prop :=
  ∀ (s : State) (i : Instr), Running s → AtPc s i →
    step s = commit s (exec i s.decay) ∧
    (∀ t, exec i s.decay = .next t → t.err = none → step s = .next t.takeInput) ∧
    (∀ t e, exec i s.decay = .next t → t.err = some e → step s = .next (s.raise e).takeInput)

/-- A STEP that raises leaves every piece of state but the latch as it was: timers, pc, registers, memory, stack, screen
(60_exceptions.md R251, the spec's decision D4). -/
def Obligations.FailingStepChangesOnlyTheLatch : Prop :=
  ∀ (s t : State) (e : Error), s.err = none → step s = .next t → t.err = some e → UnchangedBut [.error, .inputs] s t

/-- Once an error is latched every later STEP answers, replays it, and changes nothing (60_exceptions.md R252;
40_step_cycle.md R130, the spec's decision D4). -/
def Obligations.LatchedErrorIsReplayedForever : Prop :=
  ∀ (s : State) (e : Error), s.err = some e →
    (∃ t, step s = .next t) ∧ ∀ t, Reach s t → t.err = some e ∧ UnchangedBut [.inputs] s t

/-- A STEP with nothing loaded raises NoProgramLoaded before anything else (40_step_cycle.md R125, the spec's decisions
D3, D32; 60_exceptions.md R243). -/
def Obligations.EmptyMachineRaisesNoProgramLoaded : Prop :=
  ∀ s : State, s.err = none → s.loaded = false →
    ∃ t, step s = .next t ∧ t.err = some .noProgramLoaded ∧ UnchangedBut [.error, .inputs] s t

/-- A fetched word of R97's list raises UnknownOpcode with the whole word, and nothing is committed
(30_encoding.md R97; 60_exceptions.md R244). -/
def Obligations.UnknownWordRaisesUnknownOpcode : Prop :=
  ∀ (s : State) (op : Word), Running s → s.pc.toNat + 1 ≤ 0xFFF →
    op = wordOfBytes (s.byte s.pc.toNat) (s.byte (s.pc.toNat + 1)) → UnknownWord op →
    ∃ t, step s = .next t ∧ t.err = some (.unknownOpcode op) ∧ UnchangedBut [.error, .inputs] s t

/-- The input-blocking state machine, row by row of 44_keypad.md R204. Rows 2 and 5 rest on the spec's decisions D9, D10 and
D33 (log 13), the row of a raise on D4 (log 6), the full reset on D1 to D3 (log 5). -/
def Obligations.BlockingStateMachine : Prop :=
  (∀ (s : State) (i : Instr), Running s → AtPc s i → (∀ x, i ≠ .ldVxKey x) →
    step s = commit s (exec i s.decay) ∧ ∀ t, step s = .next t → t.blocked = false) ∧
  (∀ (s : State) (x k : Reg), Running s → AtPc s (.ldVxKey x) → LegalPc (s.pc.toNat + 2) →
    LowestDown s.input.keys k →
    ∃ t, step s = .next t ∧ (t.v x).toNat = k.val ∧ t.pc.toNat = s.pc.toNat + 2 ∧ t.blocked = false) ∧
  (∀ (s : State) (x : Reg), Running s → AtPc s (.ldVxKey x) → LegalPc (s.pc.toNat + 2) → NoneDown s.input.keys →
    ∃ t, step s = .next t ∧ t.keyReg = x ∧ t.pc.toNat = s.pc.toNat + 2 ∧ t.blocked = true) ∧
  (∀ s : State, s.err = none → s.loaded = true → s.blocked = true → NoneDown s.input.keys →
    ∃ t, step s = .next t ∧ UnchangedBut [.inputs] s t) ∧
  (∀ (s : State) (k : Reg), s.err = none → s.loaded = true → s.blocked = true → LowestDown s.input.keys k →
    ∃ t, step s = .next t ∧ (t.v s.keyReg).toNat = k.val ∧ (∀ r, r ≠ s.keyReg → t.v r = s.v r) ∧
      t.blocked = false ∧ t.keyReg = s.keyReg ∧ UnchangedBut [.regs, .wait, .inputs] s t) ∧
  (∀ (s t : State) (e : Error), s.err = none → step s = .next t → t.err = some e → t.blocked = s.blocked) ∧
  (∀ (s : State) (program : List Byte), program.length ≤ 3584 → FreshMachine s program (load program s).1) ∧
  (∀ s : State, FreshMachine s [] s.powerOn)

/-! ### The invariant -/

/-- Every STEP keeps the invariant: canonical memory, `I` in memory, a legal pc, legal return addresses (10_state.md R26,
R28, R32, with the spec's decisions D4 to D7 for the pc). -/
def Obligations.StepKeepsInv : Prop := ∀ s t : State, Inv s → step s = .next t → Inv t

/-- RESET leaves a state that meets the invariant, whatever the state before and its parameters, with an empty stack and no
error; so does the state after power-on (40_step_cycle.md R134; 10_state.md R43). -/
def Obligations.ResetMeetsInv : Prop :=
  (Inv State.reset ∧ State.reset.sp = 0 ∧ State.reset.err = none) ∧
    ∀ s : State, Inv s.powerOn ∧ s.powerOn.sp = 0 ∧ s.powerOn.err = none

/-- LOAD keeps the invariant, accepted or refused (40_step_cycle.md R121). -/
def Obligations.LoadKeepsInv : Prop := ∀ (s : State) (program : List Byte), Inv s → Inv (load program s).1

/-- Each of the four transactions, with any inputs and any program, keeps the invariant (40_step_cycle.md R120). -/
def Obligations.TransactionsKeepInv : Prop :=
  ∀ (s t : State) (a : Transaction) (r : Response), Inv s → transact a s = .next (t, r) → Inv t

/-- From a state that meets the invariant a STEP always answers a next state: the model's one fault is out of reach
(40_step_cycle.md R126: "fetch cannot fail"). -/
def Obligations.StepNeverStopsUnderInv : Prop := ∀ s : State, Inv s → ∃ t, step s = .next t

/-- The payload of an AddressOverflow is no legal pc and at most 0x10FE (60_exceptions.md R241). -/
def Obligations.AddressOverflowPayloads : Prop :=
  ∀ (s t : State) (a : Nat), Inv s → s.err = none → step s = .next t → t.err = some (.addressOverflow a) →
    ¬ LegalPc a ∧ a ≤ 0x10FE

/-! ### Who writes what -/

/-- Each part of the state is changed only by the instructions the access matrix gives it (10_state.md R44; R25 for `I`,
R30 for the stack, R33 and R34 for the timers, R35 for the screen, R36 for waiting, R41 for memory). -/
def Obligations.PartsAreWrittenOnlyByTheirInstructions : Prop :=
  ∀ (i : Instr) (s t : State), exec i s = .next t →
    ((i ≠ .cls ∧ ∀ x y n, i ≠ .drw x y n) → Unchanged s t .screen) ∧
    ((∀ x, i ≠ .ldBcd x ∧ i ≠ .storeRegs x) → Unchanged s t .memory) ∧
    ((i ≠ .ret ∧ ∀ a, i ≠ .call a) → Unchanged s t .stack) ∧
    ((∀ a, i ≠ .ldI a) ∧ (∀ x, i ≠ .addI x ∧ i ≠ .ldFont x) → Unchanged s t .index) ∧
    ((∀ x, i ≠ .ldDtVx x) → Unchanged s t .delay) ∧
    ((∀ x, i ≠ .ldStVx x) → Unchanged s t .sound) ∧
    ((∀ x, i ≠ .ldVxKey x) → Unchanged s t .wait) ∧
    Unchanged s t .loaded ∧ Unchanged s t .parameters ∧ Unchanged s t .inputs

/-- A register changes only where the access matrix lets the instruction write it: VF only for the six flag instructions
and where it is named as the destination (10_state.md R24, R44, with the spec's decision D21). -/
def Obligations.RegistersAreWrittenOnlyAsNamed : Prop :=
  ∀ (i : Instr) (s t : State) (r : Reg), exec i s = .next t → ¬ mayWrite i r → t.v r = s.v r

/-! ### Loads, arithmetic, logic, shifts, random -/

/-- 6Xkk, 7Xkk and 8XY0 write Vx and nothing else; the addition wraps and VF is a plain register
(42_load_alu.md R161, R162, R163). -/
def Obligations.LoadsAndByteAddWriteVx : Prop :=
  ∀ (s : State) (x y : Reg) (kk : Byte), LegalPc (s.pc.toNat + 2) →
    WritesReg (.ldByte x kk) x kk.toNat s ∧
    WritesReg (.addByte x kk) x (((s.v x).toNat + kk.toNat) % 256) s ∧
    WritesReg (.ldReg x y) x (s.v y).toNat s

/-- 8XY1, 8XY2 and 8XY3 write the bitwise result to Vx and nothing else: VF is no flag of theirs
(42_load_alu.md R164 to R166, with the spec's decision D21). -/
def Obligations.LogicWritesVxAndNoFlag : Prop :=
  ∀ (s : State) (x y : Reg), LegalPc (s.pc.toNat + 2) →
    WritesReg (.orReg x y) x ((s.v x).toNat ||| (s.v y).toNat) s ∧
    WritesReg (.andReg x y) x ((s.v x).toNat &&& (s.v y).toNat) s ∧
    WritesReg (.xorReg x y) x ((s.v x).toNat ^^^ (s.v y).toNat) s

/-- 8XY4, 8XY5 and 8XY7: the result modulo 256, and VF the carry or the NOT-borrow of the old operands, written last, so
that with x = F the flag remains (42_load_alu.md R167, R168, R170, R173). -/
def Obligations.ArithmeticSetsTheFlagLast : Prop :=
  ∀ (s : State) (x y : Reg), LegalPc (s.pc.toNat + 2) →
    WritesRegAndFlag (.addReg x y) x (((s.v x).toNat + (s.v y).toNat) % 256)
      (if (s.v x).toNat + (s.v y).toNat > 255 then 1 else 0) s ∧
    WritesRegAndFlag (.subReg x y) x (((s.v x).toNat + 256 - (s.v y).toNat) % 256)
      (if (s.v x).toNat ≥ (s.v y).toNat then 1 else 0) s ∧
    WritesRegAndFlag (.subnReg x y) x (((s.v y).toNat + 256 - (s.v x).toNat) % 256)
      (if (s.v y).toNat ≥ (s.v x).toNat then 1 else 0) s

/-- 8XY6 and 8XYE shift Vx in place by one, whatever y is, and VF is the bit shifted out, written last
(42_load_alu.md R169, R171, R173). -/
def Obligations.ShiftsSetTheFlagLast : Prop :=
  ∀ (s : State) (x y : Reg), LegalPc (s.pc.toNat + 2) →
    WritesRegAndFlag (.shr x y) x ((s.v x).toNat / 2) ((s.v x).toNat % 2) s ∧
    WritesRegAndFlag (.shl x y) x ((s.v x).toNat * 2 % 256) ((s.v x).toNat / 128) s

/-- CXkk gives Vx this STEP's random byte and kk, whatever byte the host drew or, where none is lined up, whatever the free
value is (42_load_alu.md R172, with the spec's decision D12; the inputs are the model's field of log 3, at any value). -/
def Obligations.RandomMasksThisStepsByte : Prop :=
  ∀ (s : State) (x : Reg) (kk : Byte), LegalPc (s.pc.toNat + 2) →
    WritesReg (.rnd x kk) x (s.input.rnd.toNat &&& kk.toNat) s ∧
    ∀ (inp : StepInput) (rest : List StepInput), s.host.inputs = inp :: rest → s.input = inp

/-! ### Control transfer -/

/-- 1NNN and BNNN go to their target where it is legal and raise AddressOverflow of the untruncated target where it is
not (41_control_flow.md R142, R148; the spec's decisions D5 to D7). -/
def Obligations.JumpsGoToLegalTargetsOnly : Prop :=
  ∀ (s : State) (nnn : BitVec 12),
    Proceeds (.jp nnn) nnn.toNat s ∧ Proceeds (.jpV0 nnn) (nnn.toNat + (s.v 0).toNat) s

/-- The four register skips pass over the next word iff their comparison holds, and change nothing but pc
(41_control_flow.md R144 to R147); that a skip past 0xFFE raises is the pc check's (the spec's decision D5). -/
def Obligations.RegisterSkipsPassOverOneWord : Prop :=
  ∀ (s : State) (x y : Reg) (kk : Byte),
    Proceeds (.seByte x kk) (s.pc.toNat + if s.v x = kk then 4 else 2) s ∧
    Proceeds (.sneByte x kk) (s.pc.toNat + if s.v x ≠ kk then 4 else 2) s ∧
    Proceeds (.seReg x y) (s.pc.toNat + if s.v x = s.v y then 4 else 2) s ∧
    Proceeds (.sneReg x y) (s.pc.toNat + if s.v x ≠ s.v y then 4 else 2) s

/-- 00EE with sp = 0 raises StackUnderflow; else it takes the top entry off and goes there, clearing nothing, or raises
where the entry is 0x1000 (41_control_flow.md R141). -/
def Obligations.ReturnPopsOrRaises : Prop :=
  ∀ s : State,
    (s.sp = 0 → Raises .ret .stackUnderflow s) ∧
    (∀ k : Fin 16, s.sp.val = k.val + 1 → LegalPc s.stack[k.val].toNat →
      ∃ t, exec .ret s = .next t ∧ t.pc = s.stack[k.val] ∧ t.sp.val = k.val ∧ t.stack = s.stack ∧
        UnchangedBut [.pc, .stack] s t) ∧
    (∀ k : Fin 16, s.sp.val = k.val + 1 → s.stack[k.val].toNat = 0x1000 → Raises .ret (.addressOverflow 0x1000) s)

/-- 2NNN with sp = 16 raises StackOverflow; else it puts pc + 2 in Stack[sp] and goes to a legal NNN, or raises with no
push (41_control_flow.md R143; the spec's decisions D8 for the entry, D6 and D7 for the target). -/
def Obligations.CallPushesTheReturnAddress : Prop :=
  ∀ (s : State) (nnn : BitVec 12),
    (s.sp.val = 16 → Raises (.call nnn) .stackOverflow s) ∧
    (s.sp.val < 16 → ¬ LegalPc nnn.toNat → Raises (.call nnn) (.addressOverflow nnn.toNat) s) ∧
    (∀ k : Fin 16, s.sp.val = k.val → LegalPc nnn.toNat →
      ∃ t, exec (.call nnn) s = .next t ∧ t.pc.toNat = nnn.toNat ∧ t.sp.val = k.val + 1 ∧
        t.stack[k.val] = s.pc + 2 ∧ (∀ j : Fin 16, j ≠ k → t.stack[j.val] = s.stack[j.val]) ∧
        UnchangedBut [.pc, .stack] s t)

/-- A return from a state with the stack a call left goes to the instruction after the call and gives the depth back,
whatever else the callee changed (95_test_vectors.md X8; the spec's decision D8). -/
def Obligations.ReturnUndoesCall : Prop :=
  ∀ (s t u : State) (nnn : BitVec 12), s.sp.val < 16 → LegalPc nnn.toNat → LegalPc (s.pc.toNat + 2) →
    exec (.call nnn) s = .next t → Unchanged t u .stack →
    ∃ w, exec .ret u = .next w ∧ w.pc.toNat = s.pc.toNat + 2 ∧ w.sp = s.sp ∧ UnchangedBut [.pc, .stack] u w

/-- At 0xFFE every instruction that goes on to the next word raises AddressOverflow(0x1000) and keeps nothing of its work:
all but jumps, calls, returns and taken skips, each where its own check passes (40_step_cycle.md R129, R130, the spec's
decisions D4, D5). -/
def Obligations.SequentialInstructionAtTheTopRaises : Prop :=
  ∀ (s : State) (i : Instr), s.pc = 0xFFE → GoesOn i s → Raises i (.addressOverflow 0x1000) s

/-- The instruction's own check comes before the pc check: a full stack before a bad target, a data address before a bad
next pc (60_exceptions.md R249, the spec's decision D18). -/
def Obligations.OwnCheckComesBeforeThePcCheck : Prop :=
  (∀ (s : State) (nnn : BitVec 12), s.sp.val = 16 → ¬ LegalPc nnn.toNat → Raises (.call nnn) .stackOverflow s) ∧
  (∀ (s : State) (x : Reg), s.pc = 0xFFE → s.I.toNat + x.val > 0xFFF →
    Raises (.storeRegs x) (.addressOverflow (s.I.toNat + x.val)) s ∧
    Raises (.loadRegs x) (.addressOverflow (s.I.toNat + x.val)) s)

/-- A STEP of `JP self` changes nothing but the timers (40_step_cycle.md R133). -/
def Obligations.JumpToSelfOnlyDecays : Prop :=
  ∀ (s : State) (nnn : BitVec 12), Running s → AtPc s (.jp nnn) → s.pc.toNat = nnn.toNat → LegalPc s.pc.toNat →
    ∃ t, step s = .next t ∧ UnchangedBut [.delay, .sound, .inputs] s t

/-! ### Keypad -/

/-- EX9E skips iff the key Vx is down, EXA1 iff it is not; a number above 15 is never down and is not masked
(44_keypad.md R201, R202, with R200's key test); that a skip past 0xFFE raises is the pc check's (the spec's decision D5). -/
def Obligations.KeySkipsTestTheSnapshot : Prop :=
  ∀ (s : State) (x : Reg),
    Proceeds (.skp x) (s.pc.toNat + if Down s.input.keys (s.v x) then 4 else 2) s ∧
    Proceeds (.sknp x) (s.pc.toNat + if ¬ Down s.input.keys (s.v x) then 4 else 2) s

/-- FX0A takes the lowest key that is down and stays Running, or blocks with x remembered; pc moves on either way
(44_keypad.md R203, the spec's decisions D9, D10). -/
def Obligations.WaitForKeyTakesAKeyOrBlocks : Prop :=
  ∀ (s : State) (x : Reg), LegalPc (s.pc.toNat + 2) →
    (∀ k, LowestDown s.input.keys k → WritesReg (.ldVxKey x) x k.val s) ∧
    (NoneDown s.input.keys → ∃ t, exec (.ldVxKey x) s = .next t ∧ t.blocked = true ∧ t.keyReg = x ∧
      t.pc.toNat = s.pc.toNat + 2 ∧ UnchangedBut [.wait, .pc] s t)

/-! ### Timers -/

/-- A STEP takes 1 off each non-zero timer whose reference is at least TICK old, and moves that reference to now; it
leaves the others alone. So no timer loses more than 1, wraps, or moves without a STEP (45_timers.md R211, the spec's
decision D11). TICK is any positive number, the type's only values (log 1). -/
def Obligations.TimersDecayByTheirOwnReference : Prop :=
  ∀ (s t : State) (i : Instr), Running s → AtPc s i → step s = .next t → t.err = none →
    ((∀ x, i ≠ .ldDtVx x) →
      if s.DT ≠ 0 ∧ s.input.now - s.dtRef ≥ s.config.tick.val
      then t.DT.toNat + 1 = s.DT.toNat ∧ t.dtRef = s.input.now
      else t.DT = s.DT ∧ t.dtRef = s.dtRef) ∧
    ((∀ x, i ≠ .ldStVx x) →
      if s.ST ≠ 0 ∧ s.input.now - s.stRef ≥ s.config.tick.val
      then t.ST.toNat + 1 = s.ST.toNat ∧ t.stRef = s.input.now
      else t.ST = s.ST ∧ t.stRef = s.stRef)

/-- FX07 gives Vx the delay timer and changes nothing else; in a STEP that is the timer after that STEP's decay, by the
law of 45_timers.md R211 (45_timers.md R212; the law is the spec's decision D11, logs 14 and 8). -/
def Obligations.DelayReadSeesThisStepsDecay : Prop :=
  ∀ (s : State) (x : Reg), LegalPc (s.pc.toNat + 2) →
    WritesReg (.ldVxDt x) x s.DT.toNat s ∧
    (Running s → AtPc s (.ldVxDt x) →
      ∃ t, step s = .next t ∧ t.err = none ∧ t.v x = t.DT ∧
        (t.v x).toNat = if s.DT ≠ 0 ∧ s.input.now - s.dtRef ≥ s.config.tick.val then s.DT.toNat - 1 else s.DT.toNat)

/-- FX15 and FX18 set their timer and its reference, over this STEP's decay, and leave the other timer alone
(45_timers.md R213, R214). -/
def Obligations.TimerWritesRestartTheReference : Prop :=
  ∀ (s : State) (x : Reg), LegalPc (s.pc.toNat + 2) →
    (∃ t, exec (.ldDtVx x) s = .next t ∧ t.DT = s.v x ∧ t.dtRef = s.input.now ∧ t.pc.toNat = s.pc.toNat + 2 ∧
      UnchangedBut [.delay, .pc] s t) ∧
    (∃ t, exec (.ldStVx x) s = .next t ∧ t.ST = s.v x ∧ t.stRef = s.input.now ∧ t.pc.toNat = s.pc.toNat + 2 ∧
      UnchangedBut [.sound, .pc] s t) ∧
    (Running s → AtPc s (.ldDtVx x) → ∃ t, step s = .next t ∧ t.DT = s.v x ∧ t.dtRef = s.input.now) ∧
    (Running s → AtPc s (.ldStVx x) → ∃ t, step s = .next t ∧ t.ST = s.v x ∧ t.stRef = s.input.now)

/-- Nothing but the sound timer itself depends on the sound timer: two machines that differ only in it step to machines
that differ only in it (45_timers.md R215; 10_state.md R34, the spec's decision D29). -/
def Obligations.SoundTimerIsInvisible : Prop :=
  ∀ (s t : State) (b : Byte) (n : Nat), step s = .next t →
    ∃ b' n', step { s with ST := b, stRef := n } = .next { t with ST := b', stRef := n' }

/-- Only CXkk reads the random byte: any other STEP is the same whatever the host drew (40_step_cycle.md R122). -/
def Obligations.RandomByteReachesOnlyRnd : Prop :=
  ∀ (s : State) (inp : StepInput) (rest : List StepInput) (b : Byte), s.host.inputs = inp :: rest →
    (∀ x kk, ¬ AtPc s (.rnd x kk)) →
    step { s with host := { s.host with inputs := { inp with rnd := b } :: rest } } = step s

/-! ### Index register and memory -/

/-- ANNN sets `I` to NNN, any of its values (46_index_memory.md R220). -/
def Obligations.LoadIndexTakesTheAddress : Prop :=
  ∀ (s : State) (nnn : BitVec 12), LegalPc (s.pc.toNat + 2) → WritesIndex (.ldI nnn) nnn.toNat s

/-- FX1E adds Vx to `I` up to 0xFFF and raises AddressOverflow of the sum beyond; FX29 sets `I` to five times the whole
byte Vx (46_index_memory.md R221, R222; the spec's decisions D16, D28). -/
def Obligations.IndexArithmetic : Prop :=
  ∀ (s : State) (x : Reg),
    (s.I.toNat + (s.v x).toNat > 0xFFF → Raises (.addI x) (.addressOverflow (s.I.toNat + (s.v x).toNat)) s) ∧
    (s.I.toNat + (s.v x).toNat ≤ 0xFFF → LegalPc (s.pc.toNat + 2) →
      WritesIndex (.addI x) (s.I.toNat + (s.v x).toNat) s) ∧
    (LegalPc (s.pc.toNat + 2) → WritesIndex (.ldFont x) ((s.v x).toNat * 5) s)

/-- FX33 stores the three decimal digits of Vx at `I`, `I` + 1, `I` + 2, changes no other byte, and stores nothing where
`I` + 2 lies above memory (46_index_memory.md R223). -/
def Obligations.BcdStoresThreeDigits : Prop :=
  ∀ (s : State) (x : Reg),
    (s.indexed 2 > 0xFFF → Raises (.ldBcd x) (.addressOverflow (s.indexed 2)) s) ∧
    (s.indexed 2 ≤ 0xFFF → LegalPc (s.pc.toNat + 2) →
      ∃ t, exec (.ldBcd x) s = .next t ∧
        (t.byte (s.indexed 0)).toNat = (s.v x).toNat / 100 ∧
        (t.byte (s.indexed 1)).toNat = (s.v x).toNat / 10 % 10 ∧
        (t.byte (s.indexed 2)).toNat = (s.v x).toNat % 10 ∧
        (∀ a, (∀ k < 3, a ≠ s.indexed k) → t.byte a = s.byte a) ∧
        t.pc.toNat = s.pc.toNat + 2 ∧ UnchangedBut [.memory, .pc] s t)

/-- FX55 stores V0..Vx at `I`..`I` + x, changes no other byte and not `I`, and stores nothing where `I` + x lies above
memory (46_index_memory.md R224). -/
def Obligations.StoreRegistersWritesTheirRange : Prop :=
  ∀ (s : State) (x : Reg),
    (s.indexed x.val > 0xFFF → Raises (.storeRegs x) (.addressOverflow (s.indexed x.val)) s) ∧
    (s.indexed x.val ≤ 0xFFF → LegalPc (s.pc.toNat + 2) →
      ∃ t, exec (.storeRegs x) s = .next t ∧
        (∀ r : Reg, r ≤ x → t.byte (s.indexed r.val) = s.v r) ∧
        (∀ a, (∀ r : Reg, r ≤ x → a ≠ s.indexed r.val) → t.byte a = s.byte a) ∧
        t.pc.toNat = s.pc.toNat + 2 ∧ UnchangedBut [.memory, .pc] s t)

/-- FX65 loads V0..Vx from `I`..`I` + x, changes no other register and not `I`, and loads nothing where `I` + x lies
above memory (46_index_memory.md R225). -/
def Obligations.LoadRegistersReadsTheirRange : Prop :=
  ∀ (s : State) (x : Reg),
    (s.indexed x.val > 0xFFF → Raises (.loadRegs x) (.addressOverflow (s.indexed x.val)) s) ∧
    (s.indexed x.val ≤ 0xFFF → LegalPc (s.pc.toNat + 2) →
      ∃ t, exec (.loadRegs x) s = .next t ∧
        (∀ r : Reg, r ≤ x → t.v r = s.byte (s.indexed r.val)) ∧
        (∀ r : Reg, x < r → t.v r = s.v r) ∧
        t.pc.toNat = s.pc.toNat + 2 ∧ UnchangedBut [.regs, .pc] s t)

/-- FX55 and later FX65 with the same x and `I` give V0..Vx back, whatever happened to the registers between
(95_test_vectors.md X7; 46_index_memory.md R226, the spec's decision D21). -/
def Obligations.StoreThenLoadRestoresRegisters : Prop :=
  ∀ (s t u : State) (x : Reg), s.indexed x.val ≤ 0xFFF → LegalPc (s.pc.toNat + 2) → LegalPc (u.pc.toNat + 2) →
    exec (.storeRegs x) s = .next t → Unchanged t u .memory → Unchanged t u .index →
    ∃ w, exec (.loadRegs x) u = .next w ∧ ∀ r : Reg, r ≤ x → w.v r = s.v r

/-- Bytes FX55 stores over the next instruction are what the next STEP fetches (20_memory.md R73, the spec's decision
D25). -/
def Obligations.StoredCodeIsFetchedNext : Prop :=
  ∀ (s : State) (x : Reg), Running s → AtPc s (.storeRegs x) → 1 ≤ x.val → s.I.toNat = s.pc.toNat + 2 →
    s.indexed x.val ≤ 0xFFF → LegalPc (s.pc.toNat + 2) →
    ∃ t, step s = .next t ∧ Running t ∧ t.fetch = some (wordOfBytes (s.v 0) (s.v 1))

/-! ### Display -/

/-- 00E0 makes every cell 0 and changes nothing else, VF included (43_display.md R190). -/
def Obligations.ClearScreenClearsEveryCell : Prop :=
  ∀ s : State, LegalPc (s.pc.toNat + 2) →
    ∃ t, exec .cls s = .next t ∧ (∀ x y, t.FB.cell x y = false) ∧ t.pc.toNat = s.pc.toNat + 2 ∧
      UnchangedBut [.screen, .pc] s t

/-- DXYN is pixelwise: every cell is XORed with the sprite bit that falls on it, clipped at the right and bottom edges,
VF tells whether a set bit met a set cell, and nothing else changes; N = 0 needs no memory (43_display.md R191 to R194;
the spec's decisions D13, D14, D15). The coordinates are read before VF is written, x = F and y = F included. -/
def Obligations.DrawIsPixelwiseXor : Prop :=
  ∀ (s : State) (x y : Reg) (n : Nat), (1 ≤ n → s.I.toNat + n - 1 ≤ 0xFFF) → LegalPc (s.pc.toNat + 2) →
    ∃ t, exec (.drw x y n) s = .next t ∧
      (∀ cx cy, t.FB.cell cx cy =
        (s.FB.cell cx cy ^^ spriteBit s ((s.v x).toNat % 64) ((s.v y).toNat % 32) n cx cy)) ∧
      ((∃ cx cy, spriteBit s ((s.v x).toNat % 64) ((s.v y).toNat % 32) n cx cy = true ∧ s.FB.cell cx cy = true) →
        t.v 15 = 1) ∧
      ((∀ cx cy, spriteBit s ((s.v x).toNat % 64) ((s.v y).toNat % 32) n cx cy = true → s.FB.cell cx cy = false) →
        t.v 15 = 0) ∧
      (∀ r, r ≠ 15 → t.v r = s.v r) ∧ t.pc.toNat = s.pc.toNat + 2 ∧ UnchangedBut [.regs, .screen, .pc] s t

/-- DXYN whose last byte lies above memory raises AddressOverflow of that address, clipped rows counted, and draws
nothing (43_display.md R191, the spec's decision D15). -/
def Obligations.DrawBeyondMemoryRaises : Prop :=
  ∀ (s : State) (x y : Reg) (n : Nat), 1 ≤ n → s.I.toNat + n - 1 > 0xFFF →
    Raises (.drw x y n) (.addressOverflow (s.I.toNat + n - 1)) s

/-- Drawing the same sprite twice at the same place gives the screen back, and the second draw's VF is 1 iff a set sprite
bit falls on a cell that was clear before the first (95_test_vectors.md X5; 43_display.md R194, the spec's decision D13).
Coordinates in VF are left to DrawIsPixelwiseXor, since the first draw overwrites VF. -/
def Obligations.DrawingTwiceRestoresTheScreen : Prop :=
  ∀ (s t : State) (x y : Reg) (n : Nat), x ≠ 15 → y ≠ 15 → (1 ≤ n → s.I.toNat + n - 1 ≤ 0xFFF) →
    LegalPc (s.pc.toNat + 2) → exec (.drw x y n) s = .next t →
    ∃ u, exec (.drw x y n) (t.setPc s.pc) = .next u ∧ (∀ cx cy, u.FB.cell cx cy = s.FB.cell cx cy) ∧
      (u.v 15 = 1 ↔ ∃ cx cy, spriteBit s ((s.v x).toNat % 64) ((s.v y).toNat % 32) n cx cy = true ∧
        s.FB.cell cx cy = false)

/-! ### Host transactions -/

/-- LOAD of at most 3584 bytes leaves a fresh machine with the program at 0x200, the font at 0 and zeros elsewhere,
whatever the state before (40_step_cycle.md R121; 10_state.md R43, the spec's decisions D2, D3, D27). -/
def Obligations.LoadLeavesAFreshMachine : Prop :=
  ∀ (s : State) (program : List Byte), program.length ≤ 3584 →
    ∃ t, transact (.load program) s = .next (t, .ok) ∧ FreshMachine s program t

/-- RESET leaves the empty machine, whatever the state before: the values of LOAD with no program, so nothing loaded
(40_step_cycle.md R134; 10_state.md R43, the spec's decisions D1, D2, D3). -/
def Obligations.ResetLeavesTheEmptyMachine : Prop :=
  ∀ s : State, ∃ t, transact .reset s = .next (t, .ok) ∧ FreshMachine s [] t

/-- STEP's response is the error its state has latched, raised now or before, and Ok where none is
(40_step_cycle.md R122, R130, the spec's decision D4). -/
def Obligations.StepAnswersTheLatchedError : Prop :=
  ∀ (s t : State) (inp : StepInput) (r : Response), transact (.step inp) s = .next (t, r) →
    (t.err = none ↔ r = .ok) ∧ ∀ e, t.err = some e ↔ r = .error e

/-- LOAD of more than 3584 bytes answers ProgramTooLarge with the length, changes no state and latches nothing
(60_exceptions.md R242). -/
def Obligations.TooLargeProgramChangesNothing : Prop :=
  ∀ (s : State) (program : List Byte), program.length > 3584 →
    transact (.load program) s = .next (s, .error (.programTooLarge program.length))

/-- The first instruction after a LOAD is the word of the program's first two bytes, at 0x200, and the machine is Running
(70_reset_and_hazards.md R281). -/
def Obligations.FirstWordAfterLoadIsTheProgramsFirst : Prop :=
  ∀ (s t : State) (hi lo : Byte) (rest : List Byte), (hi :: lo :: rest).length ≤ 3584 →
    load (hi :: lo :: rest) s = (t, .ok) → Running t ∧ t.pc = 0x200 ∧ t.fetch = some (wordOfBytes hi lo)

/-- FBREAD answers the 2048 cells, element 64*y + x the cell at column x and row y, and changes nothing
(40_step_cycle.md R131; 20_memory.md R74, the spec's decision D30). -/
def Obligations.FramebufferIsReadRowMajor : Prop :=
  ∀ s : State, ∃ cells, transact .fbread s = .next (s, .cells cells) ∧ cells.length = 2048 ∧
    ∀ x y, x < 64 → y < 32 → cells[64 * y + x]? = some (s.FB.cell x y)
end

