-- ==== Sys2Proof/Laws/Encoding.lean ====
section
/-! SUPPORT. The fields of a word and the words of the formats as numbers (30_encoding.md R91, R92), and a row's test as
arithmetic (R94): the facts from which decoding and encoding are compared. -/

namespace Sys2Proof

/-! ### Fields -/

theorem opTop_toNat (op : Word) : (opTop op).toNat = op.toNat / 4096 := by
  have := op.isLt
  simp only [opTop, BitVec.extractLsb'_toNat, Nat.shiftRight_eq_div_pow]
  omega

theorem opX_val (op : Word) : (opX op).val = op.toNat / 256 % 16 := by
  change (op.extractLsb' 8 4).toNat = _
  simp [BitVec.extractLsb'_toNat, Nat.shiftRight_eq_div_pow]

theorem opY_val (op : Word) : (opY op).val = op.toNat / 16 % 16 := by
  change (op.extractLsb' 4 4).toNat = _
  simp [BitVec.extractLsb'_toNat, Nat.shiftRight_eq_div_pow]

theorem opN_toNat (op : Word) : (opN op).toNat = op.toNat % 16 := by
  simp [opN, BitVec.extractLsb'_toNat]

theorem opKk_toNat (op : Word) : (opKk op).toNat = op.toNat % 256 := by
  simp [opKk, BitVec.extractLsb'_toNat]

theorem opNnn_toNat (op : Word) : (opNnn op).toNat = op.toNat % 4096 := by
  simp [opNnn, BitVec.extractLsb'_toNat]

/-! ### Words -/

theorem regField_toNat (x : Reg) : (regField x).toNat = x.val := rfl

theorem toNat_wordA (top : BitVec 4) (nnn : BitVec 12) : (wordA top nnn).toNat = top.toNat * 4096 + nnn.toNat := by
  rw [wordA, BitVec.toNat_append, ← Nat.shiftLeft_add_eq_or_of_lt nnn.isLt]
  simp [Nat.shiftLeft_eq]

theorem toNat_wordI (top : BitVec 4) (x : Reg) (kk : Byte) :
    (wordI top x kk).toNat = top.toNat * 4096 + x.val * 256 + kk.toNat := by
  rw [wordI, BitVec.toNat_append, ← Nat.shiftLeft_add_eq_or_of_lt kk.isLt, BitVec.toNat_append,
    ← Nat.shiftLeft_add_eq_or_of_lt (regField x).isLt, regField_toNat]
  simp only [Nat.shiftLeft_eq]
  omega

theorem toNat_wordR (top : BitVec 4) (x y : Reg) (n : BitVec 4) :
    (wordR top x y n).toNat = top.toNat * 4096 + x.val * 256 + y.val * 16 + n.toNat := by
  rw [wordR, BitVec.toNat_append, ← Nat.shiftLeft_add_eq_or_of_lt n.isLt, BitVec.toNat_append,
    ← Nat.shiftLeft_add_eq_or_of_lt (regField y).isLt, BitVec.toNat_append,
    ← Nat.shiftLeft_add_eq_or_of_lt (regField x).isLt, regField_toNat, regField_toNat]
  simp only [Nat.shiftLeft_eq]
  omega

/-! ### The fields of a format's word are what it was made of -/

theorem opTop_wordA (top : BitVec 4) (nnn : BitVec 12) : opTop (wordA top nnn) = top := by
  apply BitVec.eq_of_toNat_eq
  rw [opTop_toNat, toNat_wordA]
  omega

theorem opNnn_wordA (top : BitVec 4) (nnn : BitVec 12) : opNnn (wordA top nnn) = nnn := by
  apply BitVec.eq_of_toNat_eq
  rw [opNnn_toNat, toNat_wordA]
  omega

theorem opTop_wordI (top : BitVec 4) (x : Reg) (kk : Byte) : opTop (wordI top x kk) = top := by
  apply BitVec.eq_of_toNat_eq
  rw [opTop_toNat, toNat_wordI]
  omega

theorem opX_wordI (top : BitVec 4) (x : Reg) (kk : Byte) : opX (wordI top x kk) = x := by
  apply Fin.ext
  rw [opX_val, toNat_wordI]
  omega

theorem opKk_wordI (top : BitVec 4) (x : Reg) (kk : Byte) : opKk (wordI top x kk) = kk := by
  apply BitVec.eq_of_toNat_eq
  rw [opKk_toNat, toNat_wordI]
  omega

theorem opTop_wordR (top : BitVec 4) (x y : Reg) (n : BitVec 4) : opTop (wordR top x y n) = top := by
  apply BitVec.eq_of_toNat_eq
  rw [opTop_toNat, toNat_wordR]
  omega

theorem opX_wordR (top : BitVec 4) (x y : Reg) (n : BitVec 4) : opX (wordR top x y n) = x := by
  apply Fin.ext
  rw [opX_val, toNat_wordR]
  omega

theorem opY_wordR (top : BitVec 4) (x y : Reg) (n : BitVec 4) : opY (wordR top x y n) = y := by
  apply Fin.ext
  rw [opY_val, toNat_wordR]
  omega

theorem opN_wordR (top : BitVec 4) (x y : Reg) (n : BitVec 4) : opN (wordR top x y n) = n := by
  apply BitVec.eq_of_toNat_eq
  rw [opN_toNat, toNat_wordR]
  omega

/-- Two bytes as one word, high byte first (20_memory.md R64). -/
theorem toNat_wordOfBytes (hi lo : Byte) : (wordOfBytes hi lo).toNat = hi.toNat * 256 + lo.toNat := by
  rw [wordOfBytes, BitVec.toNat_append, ← Nat.shiftLeft_add_eq_or_of_lt lo.isLt]
  simp [Nat.shiftLeft_eq]

/-- A word split into its bytes and read back is the word. -/
theorem wordOfBytes_split (op : Word) : wordOfBytes (op.extractLsb' 8 8) (op.extractLsb' 0 8) = op := by
  apply BitVec.eq_of_toNat_eq
  have := op.isLt
  rw [toNat_wordOfBytes]
  simp only [BitVec.extractLsb'_toNat, Nat.shiftRight_eq_div_pow]
  omega

/-- Decoding a word's bytes is decoding the word. -/
theorem decode_bytesOfWord (op : Word) (rest : List Byte) : decode (bytesOfWord op ++ rest) =
    match decodeWord op with
    | .ok i => .ok (i, rest)
    | .error r => .error r := by
  cases h : decodeWord op <;> simp [decode, bytesOfWord, wordOfBytes_split, h]

/-! ### Rows -/

/-- A row's mask keeps the top nibble and a low field of `k` bits. -/
theorem and_rowMask (op : Word) (k : Nat) (hk : k ≤ 12) :
    op.toNat &&& (0xF000 ||| (2 ^ k - 1)) = op.toNat / 4096 * 4096 + op.toNat % 2 ^ k := by
  have htop : op &&& 0xF000#16 = (op >>> 12) <<< 12 := by
    ext i hi
    simp only [BitVec.getElem_and, BitVec.getElem_shiftLeft, BitVec.getElem_ushiftRight]
    interval_cases i <;> simp
  have htop' : op.toNat &&& 0xF000 = (op.toNat / 4096) <<< 12 := by
    have h := congrArg BitVec.toNat htop
    have := op.isLt
    simp only [BitVec.toNat_and, BitVec.toNat_shiftLeft, BitVec.toNat_ushiftRight, Nat.shiftRight_eq_div_pow,
      Nat.shiftLeft_eq, BitVec.toNat_ofNat] at h ⊢
    norm_num at h ⊢
    omega
  have hlt : op.toNat % 2 ^ k < 2 ^ 12 :=
    lt_of_lt_of_le (Nat.mod_lt _ (by positivity)) (Nat.pow_le_pow_right (by norm_num) hk)
  rw [Nat.and_or_distrib_left, Nat.and_two_pow_sub_one_eq_mod, htop', ← Nat.shiftLeft_add_eq_or_of_lt hlt,
    Nat.shiftLeft_eq]

/-- A row's test as arithmetic on the word: `k` is 0, 4, 8 or 12 for the four masks of the opcode map. -/
theorem accepts_iff (r : OpRow) (op : Word) (k : Nat) (hk : k ≤ 12) (hm : r.mask.toNat = 0xF000 ||| (2 ^ k - 1)) :
    r.accepts op = true ↔ op.toNat / 4096 * 4096 + op.toNat % 2 ^ k = r.pattern.toNat := by
  unfold OpRow.accepts
  rw [beq_iff_eq, ← BitVec.toNat_inj, BitVec.toNat_and, hm, and_rowMask op k hk]

end Sys2Proof
end

