-- ==== Sys2Proof/Laws/Memory.lean ====
section
/-! SUPPORT. The laws of main memory (20_memory.md R71, R77): a read after a write, a write leaves every other byte alone,
and every memory operation keeps the canonical form. The read laws hold of any list, canonical or not. -/

namespace Sys2Proof.Machine

/-! ### Reading back -/

/-- Taking an entry out makes its address read its reset contents and leaves the others alone. -/
theorem Memory.read_without (c : Config) (a b : Nat) : ∀ m : Memory,
    Memory.read c (m.without a) b = if b = a then Memory.unlisted c a else Memory.read c m b
  | [] => by
    by_cases h : b = a <;> simp [Memory.without, Memory.read, h]
  | (k, v) :: m => by
    have ih := Memory.read_without c a b m
    unfold Memory.without at ih ⊢
    by_cases hk : k = a
    · subst hk
      rw [List.filter_cons_of_neg (by simp), ih, Memory.read]
      by_cases hb : b = k
      · simp [hb]
      · simp [hb, Ne.symm hb]
    · rw [List.filter_cons_of_pos (by simpa using hk), Memory.read, Memory.read, ih]
      by_cases hb : k = b
      · subst hb; simp [hk]
      · simp [hb]

/-- An inserted entry is what its address reads, where the list had none. -/
theorem Memory.read_insert (c : Config) (a b : Nat) (v : Byte) : ∀ m : Memory, (∀ e ∈ m, e.1 ≠ a) →
    Memory.read c (Memory.insert a v m) b = if b = a then v else Memory.read c m b
  | [], _ => by
    by_cases h : b = a
    · simp [Memory.insert, Memory.read, h]
    · simp [Memory.insert, Memory.read, h, Ne.symm h]
  | (k, w) :: m, h => by
    have hk : k ≠ a := h (k, w) (by simp)
    unfold Memory.insert
    by_cases hlt : a < k
    · rw [if_pos hlt, Memory.read]
      by_cases hb : b = a
      · simp [hb]
      · simp [hb, Ne.symm hb]
    · rw [if_neg hlt, Memory.read, Memory.read, Memory.read_insert c a b v m (fun e he => h e (by simp [he]))]
      by_cases hb : k = b
      · subst hb; simp [hk]
      · simp [hb]

/-- No entry is left at an address taken out. -/
theorem Memory.without_no_entry (m : Memory) (a : Nat) : ∀ e ∈ m.without a, e.1 ≠ a := by
  intro e he
  simpa using (List.mem_filter.1 he).2

/-- Reading after a write, of the written byte and of any other (20_memory.md R69, R71, R77). -/
theorem Memory.read_write (c : Config) (m : Memory) (a b : Nat) (v : Byte) :
    Memory.read c (Memory.write c m a v) b = if b = a then v else Memory.read c m b := by
  unfold Memory.write
  by_cases hv : v = Memory.unlisted c a
  · rw [if_pos hv, Memory.read_without, hv]
  · rw [if_neg hv, Memory.read_insert c a b v _ (Memory.without_no_entry m a), Memory.read_without]
    by_cases hb : b = a <;> simp [hb]

/-- Reading after a run of writes: inside the run its byte, outside what was there (20_memory.md R65). -/
theorem Memory.read_writeAll (c : Config) : ∀ (bs : List Byte) (m : Memory) (a b : Nat),
    Memory.read c (Memory.writeAll c m a bs) b =
      if h : a ≤ b ∧ b < a + bs.length then bs[b - a]'(by omega) else Memory.read c m b
  | [], m, a, b => by
    have : ¬ (a ≤ b ∧ b < a + ([] : List Byte).length) := by simp
    rw [dif_neg this]; rfl
  | w :: bs, m, a, b => by
    rw [Memory.writeAll, Memory.read_writeAll c bs _ (a + 1) b, Memory.read_write c m a b w]
    simp only [List.length_cons]
    by_cases hb : b = a
    · subst hb
      simp
    · by_cases hin : a + 1 ≤ b ∧ b < a + 1 + bs.length
      · have : a ≤ b ∧ b < a + (bs.length + 1) := by omega
        rw [dif_pos hin, dif_pos this]
        have e : b - a = (b - (a + 1)) + 1 := by omega
        simp [e]
      · have : ¬ (a ≤ b ∧ b < a + (bs.length + 1)) := by omega
        rw [dif_neg hin, dif_neg this, if_neg hb]

/-- One byte of a state's memory after a store (20_memory.md R77). -/
theorem State.setByte_byte (s : State) (a b : Nat) (v : Byte) :
    (s.setByte a v).byte b = if b = a then v else s.byte b :=
  Memory.read_write s.config s.mem a b v

/-! ### The canonical form -/

/-- A lower bound may be lowered. -/
theorem Memory.risingFrom_mono : ∀ (m : Memory) {low low' : Nat}, Memory.risingFrom low m = true → low' ≤ low →
    Memory.risingFrom low' m = true
  | [], _, _, _, _ => rfl
  | (k, v) :: m, low, low', h, hl => by
    simp only [Memory.risingFrom, Bool.and_eq_true, decide_eq_true_eq] at h ⊢
    exact ⟨by omega, h.2⟩

/-- Taking an entry out keeps the addresses rising. -/
theorem Memory.without_rising (a : Nat) : ∀ (m : Memory) (low : Nat), Memory.risingFrom low m = true →
    Memory.risingFrom low (m.without a) = true
  | [], _, _ => rfl
  | (k, v) :: m, low, h => by
    simp only [Memory.risingFrom, Bool.and_eq_true, decide_eq_true_eq] at h
    have ih := Memory.without_rising a m (k + 1) h.2
    unfold Memory.without at ih ⊢
    by_cases hk : k = a
    · rw [List.filter_cons_of_neg (by simpa using hk)]
      exact Memory.risingFrom_mono _ ih (by omega)
    · rw [List.filter_cons_of_pos (by simpa using hk)]
      simp only [Memory.risingFrom, Bool.and_eq_true, decide_eq_true_eq]
      exact ⟨h.1, ih⟩

/-- Inserting at an address that has no entry keeps the addresses rising. -/
theorem Memory.insert_rising (a : Nat) (v : Byte) : ∀ (m : Memory) (low : Nat), Memory.risingFrom low m = true →
    low ≤ a → (∀ e ∈ m, e.1 ≠ a) → Memory.risingFrom low (Memory.insert a v m) = true
  | [], low, _, ha, _ => by simp [Memory.insert, Memory.risingFrom, ha]
  | (k, w) :: m, low, h, ha, hn => by
    simp only [Memory.risingFrom, Bool.and_eq_true, decide_eq_true_eq] at h
    have hk : k ≠ a := hn (k, w) (by simp)
    unfold Memory.insert
    by_cases hlt : a < k
    · have : a + 1 ≤ k := by omega
      simp [if_pos hlt, Memory.risingFrom, ha, h.2, this]
    · have ih := Memory.insert_rising a v m (k + 1) h.2 (by omega) (fun e he => hn e (by simp [he]))
      simp [if_neg hlt, Memory.risingFrom, h.1, ih]

/-- An inserted memory's entries are the new one and the old ones. -/
theorem Memory.mem_insert (a : Nat) (v : Byte) (e : Host.Cell) : ∀ m : Memory, e ∈ Memory.insert a v m →
    e = (a, v) ∨ e ∈ m
  | [], h => by simpa [Memory.insert] using h
  | (k, w) :: m, h => by
    unfold Memory.insert at h
    split at h
    · simpa using h
    · rcases List.mem_cons.1 h with h | h
      · exact .inr (by simp [h])
      · rcases Memory.mem_insert a v e m h with h | h
        · exact .inl h
        · exact .inr (by simp [h])

/-- The canonical form, taken apart. -/
theorem Memory.wf_iff (c : Config) (m : Memory) : Memory.wf c m = true ↔
    Memory.risingFrom 0 m = true ∧ ∀ e ∈ m, e.1 ≤ memTop ∧ e.2 ≠ Memory.unlisted c e.1 := by
  simp [Memory.wf, List.all_eq_true]

/-- Memory with nothing listed is canonical (10_state.md R43). -/
theorem Memory.wf_nil (c : Config) : Memory.wf c [] = true := rfl

/-- A write within memory keeps the canonical form. -/
theorem Memory.wf_write (c : Config) (m : Memory) (a : Nat) (v : Byte) (h : Memory.wf c m = true) (ha : a ≤ memTop) :
    Memory.wf c (Memory.write c m a v) = true := by
  rw [Memory.wf_iff] at h ⊢
  have hw := Memory.without_rising a m 0 h.1
  have hm : ∀ e ∈ m.without a, e ∈ m := fun e he => (List.mem_filter.1 he).1
  unfold Memory.write
  by_cases hv : v = Memory.unlisted c a
  · rw [if_pos hv]
    exact ⟨hw, fun e he => h.2 e (hm e he)⟩
  · rw [if_neg hv]
    refine ⟨Memory.insert_rising a v _ 0 hw (Nat.zero_le _) (Memory.without_no_entry m a), fun e he => ?_⟩
    rcases Memory.mem_insert a v e _ he with rfl | he
    · exact ⟨ha, hv⟩
    · exact h.2 e (hm e he)

/-- A run of writes within memory keeps the canonical form. -/
theorem Memory.wf_writeAll (c : Config) : ∀ (bs : List Byte) (m : Memory) (a : Nat), Memory.wf c m = true →
    a + bs.length ≤ memTop + 1 → Memory.wf c (Memory.writeAll c m a bs) = true
  | [], _, _, h, _ => h
  | b :: bs, m, a, h, ha => by
    simp only [List.length_cons] at ha
    exact Memory.wf_writeAll c bs _ (a + 1) (Memory.wf_write c m a b h (by omega)) (by omega)

end Sys2Proof.Machine
end

