-- ==== Sys2Proof/Laws/State.lean ====
section
/-! SUPPORT. One lemma per field per update of the state: what each named update does to each field, by `rfl`. Later
proofs cite these (through simp) and unfold no record update. -/

namespace Sys2Proof.Machine

/-! ### `setByte` -/

@[simp] theorem State.setByte_mem (s : State) (a : Nat) (b : Byte) : (s.setByte a b).mem = Memory.write s.config s.mem a b := rfl
@[simp] theorem State.setByte_V (s : State) (a : Nat) (b : Byte) : (s.setByte a b).V = s.V := rfl
@[simp] theorem State.setByte_I (s : State) (a : Nat) (b : Byte) : (s.setByte a b).I = s.I := rfl
@[simp] theorem State.setByte_pc (s : State) (a : Nat) (b : Byte) : (s.setByte a b).pc = s.pc := rfl
@[simp] theorem State.setByte_stack (s : State) (a : Nat) (b : Byte) : (s.setByte a b).stack = s.stack := rfl
@[simp] theorem State.setByte_sp (s : State) (a : Nat) (b : Byte) : (s.setByte a b).sp = s.sp := rfl
@[simp] theorem State.setByte_DT (s : State) (a : Nat) (b : Byte) : (s.setByte a b).DT = s.DT := rfl
@[simp] theorem State.setByte_ST (s : State) (a : Nat) (b : Byte) : (s.setByte a b).ST = s.ST := rfl
@[simp] theorem State.setByte_dtRef (s : State) (a : Nat) (b : Byte) : (s.setByte a b).dtRef = s.dtRef := rfl
@[simp] theorem State.setByte_stRef (s : State) (a : Nat) (b : Byte) : (s.setByte a b).stRef = s.stRef := rfl
@[simp] theorem State.setByte_FB (s : State) (a : Nat) (b : Byte) : (s.setByte a b).FB = s.FB := rfl
@[simp] theorem State.setByte_blocked (s : State) (a : Nat) (b : Byte) : (s.setByte a b).blocked = s.blocked := rfl
@[simp] theorem State.setByte_keyReg (s : State) (a : Nat) (b : Byte) : (s.setByte a b).keyReg = s.keyReg := rfl
@[simp] theorem State.setByte_err (s : State) (a : Nat) (b : Byte) : (s.setByte a b).err = s.err := rfl
@[simp] theorem State.setByte_loaded (s : State) (a : Nat) (b : Byte) : (s.setByte a b).loaded = s.loaded := rfl
@[simp] theorem State.setByte_config (s : State) (a : Nat) (b : Byte) : (s.setByte a b).config = s.config := rfl
@[simp] theorem State.setByte_host (s : State) (a : Nat) (b : Byte) : (s.setByte a b).host = s.host := rfl

/-! ### `setV` -/

@[simp] theorem State.setV_mem (s : State) (x : Reg) (b : Byte) : (s.setV x b).mem = s.mem := rfl
@[simp] theorem State.setV_V (s : State) (x : Reg) (b : Byte) : (s.setV x b).V = s.V.set x.val b := rfl
@[simp] theorem State.setV_I (s : State) (x : Reg) (b : Byte) : (s.setV x b).I = s.I := rfl
@[simp] theorem State.setV_pc (s : State) (x : Reg) (b : Byte) : (s.setV x b).pc = s.pc := rfl
@[simp] theorem State.setV_stack (s : State) (x : Reg) (b : Byte) : (s.setV x b).stack = s.stack := rfl
@[simp] theorem State.setV_sp (s : State) (x : Reg) (b : Byte) : (s.setV x b).sp = s.sp := rfl
@[simp] theorem State.setV_DT (s : State) (x : Reg) (b : Byte) : (s.setV x b).DT = s.DT := rfl
@[simp] theorem State.setV_ST (s : State) (x : Reg) (b : Byte) : (s.setV x b).ST = s.ST := rfl
@[simp] theorem State.setV_dtRef (s : State) (x : Reg) (b : Byte) : (s.setV x b).dtRef = s.dtRef := rfl
@[simp] theorem State.setV_stRef (s : State) (x : Reg) (b : Byte) : (s.setV x b).stRef = s.stRef := rfl
@[simp] theorem State.setV_FB (s : State) (x : Reg) (b : Byte) : (s.setV x b).FB = s.FB := rfl
@[simp] theorem State.setV_blocked (s : State) (x : Reg) (b : Byte) : (s.setV x b).blocked = s.blocked := rfl
@[simp] theorem State.setV_keyReg (s : State) (x : Reg) (b : Byte) : (s.setV x b).keyReg = s.keyReg := rfl
@[simp] theorem State.setV_err (s : State) (x : Reg) (b : Byte) : (s.setV x b).err = s.err := rfl
@[simp] theorem State.setV_loaded (s : State) (x : Reg) (b : Byte) : (s.setV x b).loaded = s.loaded := rfl
@[simp] theorem State.setV_config (s : State) (x : Reg) (b : Byte) : (s.setV x b).config = s.config := rfl
@[simp] theorem State.setV_host (s : State) (x : Reg) (b : Byte) : (s.setV x b).host = s.host := rfl

/-! ### `setFlag` -/

@[simp] theorem State.setFlag_mem (s : State) (b : Bool) : (s.setFlag b).mem = s.mem := rfl
@[simp] theorem State.setFlag_V (s : State) (b : Bool) : (s.setFlag b).V = s.V.set regF.val (flagByte b) := rfl
@[simp] theorem State.setFlag_I (s : State) (b : Bool) : (s.setFlag b).I = s.I := rfl
@[simp] theorem State.setFlag_pc (s : State) (b : Bool) : (s.setFlag b).pc = s.pc := rfl
@[simp] theorem State.setFlag_stack (s : State) (b : Bool) : (s.setFlag b).stack = s.stack := rfl
@[simp] theorem State.setFlag_sp (s : State) (b : Bool) : (s.setFlag b).sp = s.sp := rfl
@[simp] theorem State.setFlag_DT (s : State) (b : Bool) : (s.setFlag b).DT = s.DT := rfl
@[simp] theorem State.setFlag_ST (s : State) (b : Bool) : (s.setFlag b).ST = s.ST := rfl
@[simp] theorem State.setFlag_dtRef (s : State) (b : Bool) : (s.setFlag b).dtRef = s.dtRef := rfl
@[simp] theorem State.setFlag_stRef (s : State) (b : Bool) : (s.setFlag b).stRef = s.stRef := rfl
@[simp] theorem State.setFlag_FB (s : State) (b : Bool) : (s.setFlag b).FB = s.FB := rfl
@[simp] theorem State.setFlag_blocked (s : State) (b : Bool) : (s.setFlag b).blocked = s.blocked := rfl
@[simp] theorem State.setFlag_keyReg (s : State) (b : Bool) : (s.setFlag b).keyReg = s.keyReg := rfl
@[simp] theorem State.setFlag_err (s : State) (b : Bool) : (s.setFlag b).err = s.err := rfl
@[simp] theorem State.setFlag_loaded (s : State) (b : Bool) : (s.setFlag b).loaded = s.loaded := rfl
@[simp] theorem State.setFlag_config (s : State) (b : Bool) : (s.setFlag b).config = s.config := rfl
@[simp] theorem State.setFlag_host (s : State) (b : Bool) : (s.setFlag b).host = s.host := rfl

/-! ### `setI` -/

@[simp] theorem State.setI_mem (s : State) (a : Word) : (s.setI a).mem = s.mem := rfl
@[simp] theorem State.setI_V (s : State) (a : Word) : (s.setI a).V = s.V := rfl
@[simp] theorem State.setI_I (s : State) (a : Word) : (s.setI a).I = a := rfl
@[simp] theorem State.setI_pc (s : State) (a : Word) : (s.setI a).pc = s.pc := rfl
@[simp] theorem State.setI_stack (s : State) (a : Word) : (s.setI a).stack = s.stack := rfl
@[simp] theorem State.setI_sp (s : State) (a : Word) : (s.setI a).sp = s.sp := rfl
@[simp] theorem State.setI_DT (s : State) (a : Word) : (s.setI a).DT = s.DT := rfl
@[simp] theorem State.setI_ST (s : State) (a : Word) : (s.setI a).ST = s.ST := rfl
@[simp] theorem State.setI_dtRef (s : State) (a : Word) : (s.setI a).dtRef = s.dtRef := rfl
@[simp] theorem State.setI_stRef (s : State) (a : Word) : (s.setI a).stRef = s.stRef := rfl
@[simp] theorem State.setI_FB (s : State) (a : Word) : (s.setI a).FB = s.FB := rfl
@[simp] theorem State.setI_blocked (s : State) (a : Word) : (s.setI a).blocked = s.blocked := rfl
@[simp] theorem State.setI_keyReg (s : State) (a : Word) : (s.setI a).keyReg = s.keyReg := rfl
@[simp] theorem State.setI_err (s : State) (a : Word) : (s.setI a).err = s.err := rfl
@[simp] theorem State.setI_loaded (s : State) (a : Word) : (s.setI a).loaded = s.loaded := rfl
@[simp] theorem State.setI_config (s : State) (a : Word) : (s.setI a).config = s.config := rfl
@[simp] theorem State.setI_host (s : State) (a : Word) : (s.setI a).host = s.host := rfl

/-! ### `setPc` -/

@[simp] theorem State.setPc_mem (s : State) (a : Word) : (s.setPc a).mem = s.mem := rfl
@[simp] theorem State.setPc_V (s : State) (a : Word) : (s.setPc a).V = s.V := rfl
@[simp] theorem State.setPc_I (s : State) (a : Word) : (s.setPc a).I = s.I := rfl
@[simp] theorem State.setPc_pc (s : State) (a : Word) : (s.setPc a).pc = a := rfl
@[simp] theorem State.setPc_stack (s : State) (a : Word) : (s.setPc a).stack = s.stack := rfl
@[simp] theorem State.setPc_sp (s : State) (a : Word) : (s.setPc a).sp = s.sp := rfl
@[simp] theorem State.setPc_DT (s : State) (a : Word) : (s.setPc a).DT = s.DT := rfl
@[simp] theorem State.setPc_ST (s : State) (a : Word) : (s.setPc a).ST = s.ST := rfl
@[simp] theorem State.setPc_dtRef (s : State) (a : Word) : (s.setPc a).dtRef = s.dtRef := rfl
@[simp] theorem State.setPc_stRef (s : State) (a : Word) : (s.setPc a).stRef = s.stRef := rfl
@[simp] theorem State.setPc_FB (s : State) (a : Word) : (s.setPc a).FB = s.FB := rfl
@[simp] theorem State.setPc_blocked (s : State) (a : Word) : (s.setPc a).blocked = s.blocked := rfl
@[simp] theorem State.setPc_keyReg (s : State) (a : Word) : (s.setPc a).keyReg = s.keyReg := rfl
@[simp] theorem State.setPc_err (s : State) (a : Word) : (s.setPc a).err = s.err := rfl
@[simp] theorem State.setPc_loaded (s : State) (a : Word) : (s.setPc a).loaded = s.loaded := rfl
@[simp] theorem State.setPc_config (s : State) (a : Word) : (s.setPc a).config = s.config := rfl
@[simp] theorem State.setPc_host (s : State) (a : Word) : (s.setPc a).host = s.host := rfl

/-! ### `setFB` -/

@[simp] theorem State.setFB_mem (s : State) (fb : FrameBuf) : (s.setFB fb).mem = s.mem := rfl
@[simp] theorem State.setFB_V (s : State) (fb : FrameBuf) : (s.setFB fb).V = s.V := rfl
@[simp] theorem State.setFB_I (s : State) (fb : FrameBuf) : (s.setFB fb).I = s.I := rfl
@[simp] theorem State.setFB_pc (s : State) (fb : FrameBuf) : (s.setFB fb).pc = s.pc := rfl
@[simp] theorem State.setFB_stack (s : State) (fb : FrameBuf) : (s.setFB fb).stack = s.stack := rfl
@[simp] theorem State.setFB_sp (s : State) (fb : FrameBuf) : (s.setFB fb).sp = s.sp := rfl
@[simp] theorem State.setFB_DT (s : State) (fb : FrameBuf) : (s.setFB fb).DT = s.DT := rfl
@[simp] theorem State.setFB_ST (s : State) (fb : FrameBuf) : (s.setFB fb).ST = s.ST := rfl
@[simp] theorem State.setFB_dtRef (s : State) (fb : FrameBuf) : (s.setFB fb).dtRef = s.dtRef := rfl
@[simp] theorem State.setFB_stRef (s : State) (fb : FrameBuf) : (s.setFB fb).stRef = s.stRef := rfl
@[simp] theorem State.setFB_FB (s : State) (fb : FrameBuf) : (s.setFB fb).FB = fb := rfl
@[simp] theorem State.setFB_blocked (s : State) (fb : FrameBuf) : (s.setFB fb).blocked = s.blocked := rfl
@[simp] theorem State.setFB_keyReg (s : State) (fb : FrameBuf) : (s.setFB fb).keyReg = s.keyReg := rfl
@[simp] theorem State.setFB_err (s : State) (fb : FrameBuf) : (s.setFB fb).err = s.err := rfl
@[simp] theorem State.setFB_loaded (s : State) (fb : FrameBuf) : (s.setFB fb).loaded = s.loaded := rfl
@[simp] theorem State.setFB_config (s : State) (fb : FrameBuf) : (s.setFB fb).config = s.config := rfl
@[simp] theorem State.setFB_host (s : State) (fb : FrameBuf) : (s.setFB fb).host = s.host := rfl

/-! ### `pop` -/

@[simp] theorem State.pop_mem (s : State) : (s.pop).mem = s.mem := rfl
@[simp] theorem State.pop_V (s : State) : (s.pop).V = s.V := rfl
@[simp] theorem State.pop_I (s : State) : (s.pop).I = s.I := rfl
@[simp] theorem State.pop_pc (s : State) : (s.pop).pc = s.pc := rfl
@[simp] theorem State.pop_stack (s : State) : (s.pop).stack = s.stack := rfl
@[simp] theorem State.pop_DT (s : State) : (s.pop).DT = s.DT := rfl
@[simp] theorem State.pop_ST (s : State) : (s.pop).ST = s.ST := rfl
@[simp] theorem State.pop_dtRef (s : State) : (s.pop).dtRef = s.dtRef := rfl
@[simp] theorem State.pop_stRef (s : State) : (s.pop).stRef = s.stRef := rfl
@[simp] theorem State.pop_FB (s : State) : (s.pop).FB = s.FB := rfl
@[simp] theorem State.pop_blocked (s : State) : (s.pop).blocked = s.blocked := rfl
@[simp] theorem State.pop_keyReg (s : State) : (s.pop).keyReg = s.keyReg := rfl
@[simp] theorem State.pop_err (s : State) : (s.pop).err = s.err := rfl
@[simp] theorem State.pop_loaded (s : State) : (s.pop).loaded = s.loaded := rfl
@[simp] theorem State.pop_config (s : State) : (s.pop).config = s.config := rfl
@[simp] theorem State.pop_host (s : State) : (s.pop).host = s.host := rfl

/-! ### `takeInput` -/

@[simp] theorem State.takeInput_mem (s : State) : (s.takeInput).mem = s.mem := rfl
@[simp] theorem State.takeInput_V (s : State) : (s.takeInput).V = s.V := rfl
@[simp] theorem State.takeInput_I (s : State) : (s.takeInput).I = s.I := rfl
@[simp] theorem State.takeInput_pc (s : State) : (s.takeInput).pc = s.pc := rfl
@[simp] theorem State.takeInput_stack (s : State) : (s.takeInput).stack = s.stack := rfl
@[simp] theorem State.takeInput_sp (s : State) : (s.takeInput).sp = s.sp := rfl
@[simp] theorem State.takeInput_DT (s : State) : (s.takeInput).DT = s.DT := rfl
@[simp] theorem State.takeInput_ST (s : State) : (s.takeInput).ST = s.ST := rfl
@[simp] theorem State.takeInput_dtRef (s : State) : (s.takeInput).dtRef = s.dtRef := rfl
@[simp] theorem State.takeInput_stRef (s : State) : (s.takeInput).stRef = s.stRef := rfl
@[simp] theorem State.takeInput_FB (s : State) : (s.takeInput).FB = s.FB := rfl
@[simp] theorem State.takeInput_blocked (s : State) : (s.takeInput).blocked = s.blocked := rfl
@[simp] theorem State.takeInput_keyReg (s : State) : (s.takeInput).keyReg = s.keyReg := rfl
@[simp] theorem State.takeInput_err (s : State) : (s.takeInput).err = s.err := rfl
@[simp] theorem State.takeInput_loaded (s : State) : (s.takeInput).loaded = s.loaded := rfl
@[simp] theorem State.takeInput_config (s : State) : (s.takeInput).config = s.config := rfl

/-! ### `block` -/

@[simp] theorem State.block_mem (s : State) (x : Reg) : (s.block x).mem = s.mem := rfl
@[simp] theorem State.block_V (s : State) (x : Reg) : (s.block x).V = s.V := rfl
@[simp] theorem State.block_I (s : State) (x : Reg) : (s.block x).I = s.I := rfl
@[simp] theorem State.block_pc (s : State) (x : Reg) : (s.block x).pc = s.pc := rfl
@[simp] theorem State.block_stack (s : State) (x : Reg) : (s.block x).stack = s.stack := rfl
@[simp] theorem State.block_sp (s : State) (x : Reg) : (s.block x).sp = s.sp := rfl
@[simp] theorem State.block_DT (s : State) (x : Reg) : (s.block x).DT = s.DT := rfl
@[simp] theorem State.block_ST (s : State) (x : Reg) : (s.block x).ST = s.ST := rfl
@[simp] theorem State.block_dtRef (s : State) (x : Reg) : (s.block x).dtRef = s.dtRef := rfl
@[simp] theorem State.block_stRef (s : State) (x : Reg) : (s.block x).stRef = s.stRef := rfl
@[simp] theorem State.block_FB (s : State) (x : Reg) : (s.block x).FB = s.FB := rfl
@[simp] theorem State.block_blocked (s : State) (x : Reg) : (s.block x).blocked = true := rfl
@[simp] theorem State.block_keyReg (s : State) (x : Reg) : (s.block x).keyReg = x := rfl
@[simp] theorem State.block_err (s : State) (x : Reg) : (s.block x).err = s.err := rfl
@[simp] theorem State.block_loaded (s : State) (x : Reg) : (s.block x).loaded = s.loaded := rfl
@[simp] theorem State.block_config (s : State) (x : Reg) : (s.block x).config = s.config := rfl
@[simp] theorem State.block_host (s : State) (x : Reg) : (s.block x).host = s.host := rfl

/-! ### `unblock` -/

@[simp] theorem State.unblock_mem (s : State) : (s.unblock).mem = s.mem := rfl
@[simp] theorem State.unblock_V (s : State) : (s.unblock).V = s.V := rfl
@[simp] theorem State.unblock_I (s : State) : (s.unblock).I = s.I := rfl
@[simp] theorem State.unblock_pc (s : State) : (s.unblock).pc = s.pc := rfl
@[simp] theorem State.unblock_stack (s : State) : (s.unblock).stack = s.stack := rfl
@[simp] theorem State.unblock_sp (s : State) : (s.unblock).sp = s.sp := rfl
@[simp] theorem State.unblock_DT (s : State) : (s.unblock).DT = s.DT := rfl
@[simp] theorem State.unblock_ST (s : State) : (s.unblock).ST = s.ST := rfl
@[simp] theorem State.unblock_dtRef (s : State) : (s.unblock).dtRef = s.dtRef := rfl
@[simp] theorem State.unblock_stRef (s : State) : (s.unblock).stRef = s.stRef := rfl
@[simp] theorem State.unblock_FB (s : State) : (s.unblock).FB = s.FB := rfl
@[simp] theorem State.unblock_blocked (s : State) : (s.unblock).blocked = false := rfl
@[simp] theorem State.unblock_keyReg (s : State) : (s.unblock).keyReg = s.keyReg := rfl
@[simp] theorem State.unblock_err (s : State) : (s.unblock).err = s.err := rfl
@[simp] theorem State.unblock_loaded (s : State) : (s.unblock).loaded = s.loaded := rfl
@[simp] theorem State.unblock_config (s : State) : (s.unblock).config = s.config := rfl
@[simp] theorem State.unblock_host (s : State) : (s.unblock).host = s.host := rfl

/-! ### `setDT` -/

@[simp] theorem State.setDT_mem (s : State) (b : Byte) : (s.setDT b).mem = s.mem := rfl
@[simp] theorem State.setDT_V (s : State) (b : Byte) : (s.setDT b).V = s.V := rfl
@[simp] theorem State.setDT_I (s : State) (b : Byte) : (s.setDT b).I = s.I := rfl
@[simp] theorem State.setDT_pc (s : State) (b : Byte) : (s.setDT b).pc = s.pc := rfl
@[simp] theorem State.setDT_stack (s : State) (b : Byte) : (s.setDT b).stack = s.stack := rfl
@[simp] theorem State.setDT_sp (s : State) (b : Byte) : (s.setDT b).sp = s.sp := rfl
@[simp] theorem State.setDT_DT (s : State) (b : Byte) : (s.setDT b).DT = b := rfl
@[simp] theorem State.setDT_ST (s : State) (b : Byte) : (s.setDT b).ST = s.ST := rfl
@[simp] theorem State.setDT_dtRef (s : State) (b : Byte) : (s.setDT b).dtRef = s.input.now := rfl
@[simp] theorem State.setDT_stRef (s : State) (b : Byte) : (s.setDT b).stRef = s.stRef := rfl
@[simp] theorem State.setDT_FB (s : State) (b : Byte) : (s.setDT b).FB = s.FB := rfl
@[simp] theorem State.setDT_blocked (s : State) (b : Byte) : (s.setDT b).blocked = s.blocked := rfl
@[simp] theorem State.setDT_keyReg (s : State) (b : Byte) : (s.setDT b).keyReg = s.keyReg := rfl
@[simp] theorem State.setDT_err (s : State) (b : Byte) : (s.setDT b).err = s.err := rfl
@[simp] theorem State.setDT_loaded (s : State) (b : Byte) : (s.setDT b).loaded = s.loaded := rfl
@[simp] theorem State.setDT_config (s : State) (b : Byte) : (s.setDT b).config = s.config := rfl
@[simp] theorem State.setDT_host (s : State) (b : Byte) : (s.setDT b).host = s.host := rfl

/-! ### `setST` -/

@[simp] theorem State.setST_mem (s : State) (b : Byte) : (s.setST b).mem = s.mem := rfl
@[simp] theorem State.setST_V (s : State) (b : Byte) : (s.setST b).V = s.V := rfl
@[simp] theorem State.setST_I (s : State) (b : Byte) : (s.setST b).I = s.I := rfl
@[simp] theorem State.setST_pc (s : State) (b : Byte) : (s.setST b).pc = s.pc := rfl
@[simp] theorem State.setST_stack (s : State) (b : Byte) : (s.setST b).stack = s.stack := rfl
@[simp] theorem State.setST_sp (s : State) (b : Byte) : (s.setST b).sp = s.sp := rfl
@[simp] theorem State.setST_DT (s : State) (b : Byte) : (s.setST b).DT = s.DT := rfl
@[simp] theorem State.setST_ST (s : State) (b : Byte) : (s.setST b).ST = b := rfl
@[simp] theorem State.setST_dtRef (s : State) (b : Byte) : (s.setST b).dtRef = s.dtRef := rfl
@[simp] theorem State.setST_stRef (s : State) (b : Byte) : (s.setST b).stRef = s.input.now := rfl
@[simp] theorem State.setST_FB (s : State) (b : Byte) : (s.setST b).FB = s.FB := rfl
@[simp] theorem State.setST_blocked (s : State) (b : Byte) : (s.setST b).blocked = s.blocked := rfl
@[simp] theorem State.setST_keyReg (s : State) (b : Byte) : (s.setST b).keyReg = s.keyReg := rfl
@[simp] theorem State.setST_err (s : State) (b : Byte) : (s.setST b).err = s.err := rfl
@[simp] theorem State.setST_loaded (s : State) (b : Byte) : (s.setST b).loaded = s.loaded := rfl
@[simp] theorem State.setST_config (s : State) (b : Byte) : (s.setST b).config = s.config := rfl
@[simp] theorem State.setST_host (s : State) (b : Byte) : (s.setST b).host = s.host := rfl

/-! ### `raise` -/

@[simp] theorem State.raise_mem (s : State) (e : Error) : (s.raise e).mem = s.mem := rfl
@[simp] theorem State.raise_V (s : State) (e : Error) : (s.raise e).V = s.V := rfl
@[simp] theorem State.raise_I (s : State) (e : Error) : (s.raise e).I = s.I := rfl
@[simp] theorem State.raise_pc (s : State) (e : Error) : (s.raise e).pc = s.pc := rfl
@[simp] theorem State.raise_stack (s : State) (e : Error) : (s.raise e).stack = s.stack := rfl
@[simp] theorem State.raise_sp (s : State) (e : Error) : (s.raise e).sp = s.sp := rfl
@[simp] theorem State.raise_DT (s : State) (e : Error) : (s.raise e).DT = s.DT := rfl
@[simp] theorem State.raise_ST (s : State) (e : Error) : (s.raise e).ST = s.ST := rfl
@[simp] theorem State.raise_dtRef (s : State) (e : Error) : (s.raise e).dtRef = s.dtRef := rfl
@[simp] theorem State.raise_stRef (s : State) (e : Error) : (s.raise e).stRef = s.stRef := rfl
@[simp] theorem State.raise_FB (s : State) (e : Error) : (s.raise e).FB = s.FB := rfl
@[simp] theorem State.raise_blocked (s : State) (e : Error) : (s.raise e).blocked = s.blocked := rfl
@[simp] theorem State.raise_keyReg (s : State) (e : Error) : (s.raise e).keyReg = s.keyReg := rfl
@[simp] theorem State.raise_err (s : State) (e : Error) : (s.raise e).err = some e := rfl
@[simp] theorem State.raise_loaded (s : State) (e : Error) : (s.raise e).loaded = s.loaded := rfl
@[simp] theorem State.raise_config (s : State) (e : Error) : (s.raise e).config = s.config := rfl
@[simp] theorem State.raise_host (s : State) (e : Error) : (s.raise e).host = s.host := rfl

/-! ### `decay` -/

@[simp] theorem State.decay_mem (s : State) : (s.decay).mem = s.mem := rfl
@[simp] theorem State.decay_V (s : State) : (s.decay).V = s.V := rfl
@[simp] theorem State.decay_I (s : State) : (s.decay).I = s.I := rfl
@[simp] theorem State.decay_pc (s : State) : (s.decay).pc = s.pc := rfl
@[simp] theorem State.decay_stack (s : State) : (s.decay).stack = s.stack := rfl
@[simp] theorem State.decay_sp (s : State) : (s.decay).sp = s.sp := rfl
@[simp] theorem State.decay_FB (s : State) : (s.decay).FB = s.FB := rfl
@[simp] theorem State.decay_blocked (s : State) : (s.decay).blocked = s.blocked := rfl
@[simp] theorem State.decay_keyReg (s : State) : (s.decay).keyReg = s.keyReg := rfl
@[simp] theorem State.decay_err (s : State) : (s.decay).err = s.err := rfl
@[simp] theorem State.decay_loaded (s : State) : (s.decay).loaded = s.loaded := rfl
@[simp] theorem State.decay_config (s : State) : (s.decay).config = s.config := rfl
@[simp] theorem State.decay_host (s : State) : (s.decay).host = s.host := rfl

/-! ### `push` -/

@[simp] theorem State.push_mem (s : State) (a : Word) (h : s.sp.val < 16) : (s.push a h).mem = s.mem := rfl
@[simp] theorem State.push_V (s : State) (a : Word) (h : s.sp.val < 16) : (s.push a h).V = s.V := rfl
@[simp] theorem State.push_I (s : State) (a : Word) (h : s.sp.val < 16) : (s.push a h).I = s.I := rfl
@[simp] theorem State.push_pc (s : State) (a : Word) (h : s.sp.val < 16) : (s.push a h).pc = s.pc := rfl
@[simp] theorem State.push_stack (s : State) (a : Word) (h : s.sp.val < 16) :
    (s.push a h).stack = s.stack.set s.sp.val a h := rfl
@[simp] theorem State.push_DT (s : State) (a : Word) (h : s.sp.val < 16) : (s.push a h).DT = s.DT := rfl
@[simp] theorem State.push_ST (s : State) (a : Word) (h : s.sp.val < 16) : (s.push a h).ST = s.ST := rfl
@[simp] theorem State.push_dtRef (s : State) (a : Word) (h : s.sp.val < 16) : (s.push a h).dtRef = s.dtRef := rfl
@[simp] theorem State.push_stRef (s : State) (a : Word) (h : s.sp.val < 16) : (s.push a h).stRef = s.stRef := rfl
@[simp] theorem State.push_FB (s : State) (a : Word) (h : s.sp.val < 16) : (s.push a h).FB = s.FB := rfl
@[simp] theorem State.push_blocked (s : State) (a : Word) (h : s.sp.val < 16) : (s.push a h).blocked = s.blocked := rfl
@[simp] theorem State.push_keyReg (s : State) (a : Word) (h : s.sp.val < 16) : (s.push a h).keyReg = s.keyReg := rfl
@[simp] theorem State.push_err (s : State) (a : Word) (h : s.sp.val < 16) : (s.push a h).err = s.err := rfl
@[simp] theorem State.push_loaded (s : State) (a : Word) (h : s.sp.val < 16) : (s.push a h).loaded = s.loaded := rfl
@[simp] theorem State.push_config (s : State) (a : Word) (h : s.sp.val < 16) : (s.push a h).config = s.config := rfl
@[simp] theorem State.push_host (s : State) (a : Word) (h : s.sp.val < 16) : (s.push a h).host = s.host := rfl

@[simp] theorem State.push_sp_val (s : State) (a : Word) (h : s.sp.val < 16) :
    (s.push a h).sp.val = s.sp.val + 1 := rfl

@[simp] theorem State.pop_sp_val (s : State) : s.pop.sp.val = s.sp.val - 1 := rfl

@[simp] theorem State.takeInput_inputs (s : State) : s.takeInput.host.inputs = s.host.inputs.tail := rfl

@[simp] theorem State.takeInput_served (s : State) : s.takeInput.host.served = s.host.served + 1 := rfl

/-! ### The reads: which updates each leaves alone -/

@[simp] theorem State.setByte_v (s : State) (a : Nat) (b : Byte) (r : Reg) : (s.setByte a b).v r = s.v r := rfl
@[simp] theorem State.setByte_input (s : State) (a : Nat) (b : Byte) : (s.setByte a b).input = s.input := rfl
@[simp] theorem State.setByte_indexed (s : State) (a : Nat) (b : Byte) (k : Nat) : (s.setByte a b).indexed k = s.indexed k := rfl
@[simp] theorem State.setV_byte (s : State) (x : Reg) (b : Byte) (k : Nat) : (s.setV x b).byte k = s.byte k := rfl
@[simp] theorem State.setV_input (s : State) (x : Reg) (b : Byte) : (s.setV x b).input = s.input := rfl
@[simp] theorem State.setV_indexed (s : State) (x : Reg) (b : Byte) (k : Nat) : (s.setV x b).indexed k = s.indexed k := rfl
@[simp] theorem State.setFlag_byte (s : State) (b : Bool) (k : Nat) : (s.setFlag b).byte k = s.byte k := rfl
@[simp] theorem State.setFlag_input (s : State) (b : Bool) : (s.setFlag b).input = s.input := rfl
@[simp] theorem State.setFlag_indexed (s : State) (b : Bool) (k : Nat) : (s.setFlag b).indexed k = s.indexed k := rfl
@[simp] theorem State.setI_v (s : State) (a : Word) (r : Reg) : (s.setI a).v r = s.v r := rfl
@[simp] theorem State.setI_byte (s : State) (a : Word) (k : Nat) : (s.setI a).byte k = s.byte k := rfl
@[simp] theorem State.setI_input (s : State) (a : Word) : (s.setI a).input = s.input := rfl
@[simp] theorem State.setPc_v (s : State) (a : Word) (r : Reg) : (s.setPc a).v r = s.v r := rfl
@[simp] theorem State.setPc_byte (s : State) (a : Word) (k : Nat) : (s.setPc a).byte k = s.byte k := rfl
@[simp] theorem State.setPc_input (s : State) (a : Word) : (s.setPc a).input = s.input := rfl
@[simp] theorem State.setPc_indexed (s : State) (a : Word) (k : Nat) : (s.setPc a).indexed k = s.indexed k := rfl
@[simp] theorem State.setFB_v (s : State) (fb : FrameBuf) (r : Reg) : (s.setFB fb).v r = s.v r := rfl
@[simp] theorem State.setFB_byte (s : State) (fb : FrameBuf) (k : Nat) : (s.setFB fb).byte k = s.byte k := rfl
@[simp] theorem State.setFB_input (s : State) (fb : FrameBuf) : (s.setFB fb).input = s.input := rfl
@[simp] theorem State.setFB_indexed (s : State) (fb : FrameBuf) (k : Nat) : (s.setFB fb).indexed k = s.indexed k := rfl
@[simp] theorem State.pop_v (s : State) (r : Reg) : (s.pop).v r = s.v r := rfl
@[simp] theorem State.pop_byte (s : State) (k : Nat) : (s.pop).byte k = s.byte k := rfl
@[simp] theorem State.pop_input (s : State) : (s.pop).input = s.input := rfl
@[simp] theorem State.pop_indexed (s : State) (k : Nat) : (s.pop).indexed k = s.indexed k := rfl
@[simp] theorem State.takeInput_v (s : State) (r : Reg) : (s.takeInput).v r = s.v r := rfl
@[simp] theorem State.takeInput_byte (s : State) (k : Nat) : (s.takeInput).byte k = s.byte k := rfl
@[simp] theorem State.takeInput_indexed (s : State) (k : Nat) : (s.takeInput).indexed k = s.indexed k := rfl
@[simp] theorem State.block_v (s : State) (x : Reg) (r : Reg) : (s.block x).v r = s.v r := rfl
@[simp] theorem State.block_byte (s : State) (x : Reg) (k : Nat) : (s.block x).byte k = s.byte k := rfl
@[simp] theorem State.block_input (s : State) (x : Reg) : (s.block x).input = s.input := rfl
@[simp] theorem State.block_indexed (s : State) (x : Reg) (k : Nat) : (s.block x).indexed k = s.indexed k := rfl
@[simp] theorem State.unblock_v (s : State) (r : Reg) : (s.unblock).v r = s.v r := rfl
@[simp] theorem State.unblock_byte (s : State) (k : Nat) : (s.unblock).byte k = s.byte k := rfl
@[simp] theorem State.unblock_input (s : State) : (s.unblock).input = s.input := rfl
@[simp] theorem State.unblock_indexed (s : State) (k : Nat) : (s.unblock).indexed k = s.indexed k := rfl
@[simp] theorem State.setDT_v (s : State) (b : Byte) (r : Reg) : (s.setDT b).v r = s.v r := rfl
@[simp] theorem State.setDT_byte (s : State) (b : Byte) (k : Nat) : (s.setDT b).byte k = s.byte k := rfl
@[simp] theorem State.setDT_input (s : State) (b : Byte) : (s.setDT b).input = s.input := rfl
@[simp] theorem State.setDT_indexed (s : State) (b : Byte) (k : Nat) : (s.setDT b).indexed k = s.indexed k := rfl
@[simp] theorem State.setST_v (s : State) (b : Byte) (r : Reg) : (s.setST b).v r = s.v r := rfl
@[simp] theorem State.setST_byte (s : State) (b : Byte) (k : Nat) : (s.setST b).byte k = s.byte k := rfl
@[simp] theorem State.setST_input (s : State) (b : Byte) : (s.setST b).input = s.input := rfl
@[simp] theorem State.setST_indexed (s : State) (b : Byte) (k : Nat) : (s.setST b).indexed k = s.indexed k := rfl
@[simp] theorem State.raise_v (s : State) (e : Error) (r : Reg) : (s.raise e).v r = s.v r := rfl
@[simp] theorem State.raise_byte (s : State) (e : Error) (k : Nat) : (s.raise e).byte k = s.byte k := rfl
@[simp] theorem State.raise_input (s : State) (e : Error) : (s.raise e).input = s.input := rfl
@[simp] theorem State.raise_indexed (s : State) (e : Error) (k : Nat) : (s.raise e).indexed k = s.indexed k := rfl
@[simp] theorem State.decay_v (s : State) (r : Reg) : (s.decay).v r = s.v r := rfl
@[simp] theorem State.decay_byte (s : State) (k : Nat) : (s.decay).byte k = s.byte k := rfl
@[simp] theorem State.decay_input (s : State) : (s.decay).input = s.input := rfl
@[simp] theorem State.decay_indexed (s : State) (k : Nat) : (s.decay).indexed k = s.indexed k := rfl

@[simp] theorem State.push_v (s : State) (a : Word) (h : s.sp.val < 16) (r : Reg) : (s.push a h).v r = s.v r := rfl

@[simp] theorem State.push_byte (s : State) (a : Word) (h : s.sp.val < 16) (k : Nat) :
    (s.push a h).byte k = s.byte k := rfl

/-- Reading a register back after a write (10_state.md R22: no register is hard-wired). -/
theorem State.setV_v (s : State) (x r : Reg) (b : Byte) : (s.setV x b).v r = if r = x then b else s.v r := by
  unfold State.v State.setV
  by_cases h : r = x
  · subst h; simp
  · have : x.val ≠ r.val := fun e => h (Fin.ext e.symm)
    simp [this, h]

@[simp] theorem State.setV_v_self (s : State) (x : Reg) (b : Byte) : (s.setV x b).v x = b := by
  simp [State.setV_v]

theorem State.setV_v_other (s : State) {x r : Reg} (b : Byte) (h : r ≠ x) : (s.setV x b).v r = s.v r := by
  simp [State.setV_v, h]

/-- The flag write is a write of VF alone (10_state.md R23). -/
theorem State.setFlag_v (s : State) (r : Reg) (b : Bool) :
    (s.setFlag b).v r = if r = regF then flagByte b else s.v r := State.setV_v s regF r _

/-- A result and then the flag: the flag is what VF keeps (42_load_alu.md R173). -/
theorem State.setResultAndFlag_v (s : State) (x r : Reg) (b : Byte) (f : Bool) :
    (s.setResultAndFlag x b f).v r = if r = regF then flagByte f else if r = x then b else s.v r := by
  unfold State.setResultAndFlag
  rw [State.setFlag_v, State.setV_v]

end Sys2Proof.Machine
end

