-- ==== Sys2Proof/Laws/Ops.lean ====
section
/-! SUPPORT. What the shared operations around an instruction can do, each said once: the pc check, an instruction's own
check, the commit, decay, the key check; and the frames of the updates. -/

namespace Sys2Proof.Machine

/-! ### The pc check (40_step_cycle.md R129, R130) -/

/-- A pc the check lets through is a legal one (10_state.md R28). -/
theorem pcLegal_iff (a : Nat) : pcLegal a = true ↔ LegalPc a := by
  unfold pcLegal
  simp only [Bool.and_eq_true, decide_eq_true_eq, and_assoc]
  exact Iff.rfl

/-- Retiring to a legal pc keeps the tentative state. -/
theorem retire_legal (s t : State) {n : Nat} (h : LegalPc n) :
    retire s t n = .next (t.setPc (BitVec.ofNat 16 n)) := by
  unfold retire
  rw [if_pos ((pcLegal_iff n).2 h)]

/-- Retiring to another raises and keeps none of it. -/
theorem retire_illegal (s t : State) {n : Nat} (h : ¬ LegalPc n) :
    retire s t n = .next (s.raise (.addressOverflow n)) := by
  unfold retire
  rw [if_neg (fun e => h ((pcLegal_iff n).1 e))]

/-- Everything the pc check can do. -/
theorem retire_cases {s t u : State} {n : Nat} (h : retire s t n = .next u) :
    (LegalPc n ∧ u = t.setPc (BitVec.ofNat 16 n)) ∨ (¬ LegalPc n ∧ u = s.raise (.addressOverflow n)) := by
  by_cases hn : LegalPc n
  · rw [retire_legal s t hn] at h
    exact .inl ⟨hn, (Host.Outcome.next.inj h).symm⟩
  · rw [retire_illegal s t hn] at h
    exact .inr ⟨hn, (Host.Outcome.next.inj h).symm⟩

/-- The pc check answers a next state whatever the target. -/
theorem retire_answers (s t : State) (n : Nat) : ∃ u, retire s t n = .next u := by
  by_cases hn : LegalPc n
  · exact ⟨_, retire_legal s t hn⟩
  · exact ⟨_, retire_illegal s t hn⟩

/-- A legal target is what pc reads after it is taken: nothing is truncated. -/
theorem legalPc_toNat {n : Nat} (h : LegalPc n) : (BitVec.ofNat 16 n).toNat = n := by
  rw [BitVec.toNat_ofNat]
  omega

/-! ### An instruction's own check (20_memory.md R67) -/

/-- An address within memory passes. -/
theorem withinMemory_in (s : State) {a : Nat} (r : Result) (h : a ≤ 0xFFF) : withinMemory s a r = r := by
  unfold withinMemory memTop
  rw [if_pos h]

/-- An address above memory raises. -/
theorem withinMemory_out (s : State) {a : Nat} (r : Result) (h : a > 0xFFF) :
    withinMemory s a r = .next (s.raise (.addressOverflow a)) := by
  unfold withinMemory memTop
  rw [if_neg (by omega)]

/-- Everything the check can do. -/
theorem withinMemory_cases {s u : State} {a : Nat} {r : Result} (h : withinMemory s a r = .next u) :
    (a ≤ 0xFFF ∧ r = .next u) ∨ (a > 0xFFF ∧ u = s.raise (.addressOverflow a)) := by
  by_cases ha : a ≤ 0xFFF
  · rw [withinMemory_in s r ha] at h
    exact .inl ⟨ha, h⟩
  · rw [withinMemory_out s r (by omega)] at h
    exact .inr ⟨by omega, (Host.Outcome.next.inj h).symm⟩

/-! ### Commit (40_step_cycle.md R130) -/

/-- Nothing raised: all of the tentative state stays. -/
theorem settle_ok (s : State) {t : State} (h : t.err = none) : s.settle t = t := by
  unfold State.settle
  rw [h]

/-- Something raised: only the error stays. -/
theorem settle_raised (s : State) {t : State} {e : Error} (h : t.err = some e) : s.settle t = s.raise e := by
  unfold State.settle
  rw [h]

/-- A commit answers what the instruction answered, settled, with the inputs taken. -/
theorem commit_cases {s u : State} {r : Result} (h : commit s r = .next u) :
    ∃ t, r = .next t ∧ u = (s.settle t).takeInput := by
  cases r with
  | next t => exact ⟨t, rfl, (Host.Outcome.next.inj h).symm⟩
  | fault _ => cases h
  | refused _ => cases h

/-! ### Timers (45_timers.md R211) -/

/-- Everything decay can do to one timer. -/
theorem decayTimer_cases (tick : Tick) (now : Nat) (t : Byte) (ref : Nat) :
    (t ≠ 0 ∧ ref + tick.val ≤ now ∧ decayTimer tick now t ref = (t - 1, now)) ∨
    (¬ (t ≠ 0 ∧ ref + tick.val ≤ now) ∧ decayTimer tick now t ref = (t, ref)) := by
  unfold decayTimer
  by_cases h : t ≠ 0 ∧ ref + tick.val ≤ now
  · exact .inl ⟨h.1, h.2, if_pos h⟩
  · exact .inr ⟨h, if_neg h⟩

/-- No decrement is due at the time of the reference itself: TICK is positive (45_timers.md R213, R214). -/
theorem decayTimer_at_ref (tick : Tick) (t : Byte) (ref : Nat) : decayTimer tick ref t ref = (t, ref) := by
  have := tick.property
  unfold decayTimer
  rw [if_neg (by omega)]

/-! ### The keypad (44_keypad.md) -/

/-- The lowest key, in the spec's words. -/
theorem lowestKey_some (keys : BitVec 16) (k : Reg) : lowestKey keys = some k ↔ LowestDown keys k := by
  unfold lowestKey LowestDown
  rw [List.find?_eq_some_iff_getElem]
  constructor
  · rintro ⟨hk, i, hi, rfl, hmin⟩
    refine ⟨hk, fun j hj => ?_⟩
    have hj' : j.val < i := by simpa using Fin.lt_def.1 hj
    have := hmin j.val hj'
    simpa using this
  · rintro ⟨hk, hmin⟩
    refine ⟨hk, k.val, by simp, by simp, fun j hj => ?_⟩
    have hj16 : j < 16 := by omega
    have := hmin ⟨j, hj16⟩ hj
    simpa using this

/-- No lowest key, in the spec's words. -/
theorem lowestKey_none (keys : BitVec 16) : lowestKey keys = none ↔ NoneDown keys := by
  simp [lowestKey, NoneDown]

/-- The key test, in the spec's words. -/
theorem pressed_iff (keys : BitVec 16) (k : Byte) : pressed keys k = true ↔ Down keys k := by
  simp [pressed, Down]

/-- A key's byte is its number. -/
theorem keyByte_toNat (k : Reg) : (keyByte k).toNat = k.val := by
  have := k.isLt
  simp only [keyByte, BitVec.toNat_ofNat]
  omega

/-! ### Frames of the updates -/

theorem UnchangedBut.refl (parts : List Part) (s : State) : UnchangedBut parts s s := by
  intro p _
  cases p <;> simp [Unchanged]

theorem UnchangedBut.trans {parts : List Part} {s t u : State} (h : UnchangedBut parts s t)
    (h' : UnchangedBut parts t u) : UnchangedBut parts s u := by
  intro p hp
  have a := h p hp
  have b := h' p hp
  cases p <;> simp_all [Unchanged]

theorem UnchangedBut.mono {parts more : List Part} {s t : State} (h : UnchangedBut parts s t)
    (hs : ∀ p ∈ parts, p ∈ more) : UnchangedBut more s t := fun p hp => h p fun e => hp (hs p e)

theorem raise_frame (s : State) (e : Error) : UnchangedBut [.error] s (s.raise e) := by
  intro p hp
  cases p <;> simp_all [Unchanged]

theorem takeInput_frame (s : State) : UnchangedBut [.inputs] s s.takeInput := by
  intro p hp
  cases p <;> simp_all [Unchanged]

theorem setPc_frame (s : State) (a : Word) : UnchangedBut [.pc] s (s.setPc a) := by
  intro p hp
  cases p <;> simp_all [Unchanged]

theorem setV_frame (s : State) (x : Reg) (b : Byte) : UnchangedBut [.regs] s (s.setV x b) := by
  intro p hp
  cases p <;> simp_all [Unchanged]

theorem setFlag_frame (s : State) (b : Bool) : UnchangedBut [.regs] s (s.setFlag b) := setV_frame s regF _

theorem setI_frame (s : State) (a : Word) : UnchangedBut [.index] s (s.setI a) := by
  intro p hp
  cases p <;> simp_all [Unchanged]

theorem setByte_frame (s : State) (a : Nat) (b : Byte) : UnchangedBut [.memory] s (s.setByte a b) := by
  intro p hp
  cases p <;> simp_all [Unchanged]

theorem setFB_frame (s : State) (fb : FrameBuf) : UnchangedBut [.screen] s (s.setFB fb) := by
  intro p hp
  cases p <;> simp_all [Unchanged]

theorem push_frame (s : State) (a : Word) (h : s.sp.val < 16) : UnchangedBut [.stack] s (s.push a h) := by
  intro p hp
  cases p <;> simp_all [Unchanged]

theorem pop_frame (s : State) : UnchangedBut [.stack] s s.pop := by
  intro p hp
  cases p <;> simp_all [Unchanged]

theorem setDT_frame (s : State) (b : Byte) : UnchangedBut [.delay] s (s.setDT b) := by
  intro p hp
  cases p <;> simp_all [Unchanged]

theorem setST_frame (s : State) (b : Byte) : UnchangedBut [.sound] s (s.setST b) := by
  intro p hp
  cases p <;> simp_all [Unchanged]

theorem block_frame (s : State) (x : Reg) : UnchangedBut [.wait] s (s.block x) := by
  intro p hp
  cases p <;> simp_all [Unchanged]

theorem unblock_frame (s : State) : UnchangedBut [.wait] s s.unblock := by
  intro p hp
  cases p <;> simp_all [Unchanged]

theorem decay_frame (s : State) : UnchangedBut [.delay, .sound] s s.decay := by
  intro p hp
  cases p <;> simp_all [Unchanged]

/-- Whatever the pc check answers differs from its start by pc, the latch, and what the tentative state differs by. -/
theorem retire_frame {parts : List Part} {s t u : State} {n : Nat} (h : retire s t n = .next u)
    (hf : UnchangedBut parts s t) : UnchangedBut (.pc :: .error :: parts) s u := by
  rcases retire_cases h with ⟨-, rfl⟩ | ⟨-, rfl⟩
  · exact (hf.mono fun p hp => by simp [hp]).trans ((setPc_frame _ _).mono (by simp))
  · exact (raise_frame _ _).mono (by simp)

/-- Whatever an instruction's own check answers differs from its start by pc, the latch, and what the rest differs by. -/
theorem withinMemory_frame {parts : List Part} {s u : State} {a : Nat} {r : Result}
    (h : withinMemory s a r = .next u) (hr : r = .next u → UnchangedBut (.pc :: .error :: parts) s u) :
    UnchangedBut (.pc :: .error :: parts) s u := by
  rcases withinMemory_cases h with ⟨-, h⟩ | ⟨-, rfl⟩
  · exact hr h
  · exact (raise_frame _ _).mono (by simp)

end Sys2Proof.Machine
end

