-- ==== Sys2Proof/Laws/Loops.lean ====
section
/-! SUPPORT. What the loops of FX55 and FX65 do to each byte and each register (46_index_memory.md R224, R225). -/

namespace Sys2Proof.Machine

/-- Different registers of a range have different addresses (46_index_memory.md R227). -/
theorem indexed_inj (s : State) {a b : Nat} : s.indexed a = s.indexed b ↔ a = b := by
  unfold State.indexed
  omega

/-- The register list of FX55 and FX65 is V0..Vx. -/
theorem mem_regsThrough (x r : Reg) : r ∈ regsThrough x ↔ r ≤ x := by
  unfold regsThrough
  rw [List.mem_filter, decide_eq_true_eq]
  exact ⟨fun h => h.2, fun h => ⟨List.mem_finRange r, h⟩⟩

/-- The store loop from any state under way: bytes outside the loop's addresses stay. -/
theorem storeFold_other (s : State) (b : Nat) : ∀ (rs : List Reg) (t : State), (∀ r ∈ rs, b ≠ s.indexed r.val) →
    (rs.foldl (fun t i => t.setByte (s.indexed i.val) (s.v i)) t).byte b = t.byte b
  | [], _, _ => rfl
  | i :: rs, t, h => by
    rw [List.foldl_cons, storeFold_other s b rs _ fun r hr => h r (by simp [hr]), State.setByte_byte,
      if_neg (h i (by simp))]

/-- The store loop from any state under way: each register of the list is at its address. -/
theorem storeFold_stored (s : State) : ∀ (rs : List Reg) (t : State) (r : Reg), r ∈ rs →
    (rs.foldl (fun t i => t.setByte (s.indexed i.val) (s.v i)) t).byte (s.indexed r.val) = s.v r
  | [], _, _, h => absurd h (by simp)
  | i :: rs, t, r, h => by
    rw [List.foldl_cons]
    by_cases hr : r ∈ rs
    · exact storeFold_stored s rs _ r hr
    · have hri : r = i := by simpa [hr] using h
      subst hri
      rw [storeFold_other s _ rs, State.setByte_byte, if_pos rfl]
      intro j hj e
      exact hr (Fin.ext ((indexed_inj s).1 e) ▸ hj)

/-- The store loop changes memory alone. -/
theorem storeLoop_frame (s : State) (rs : List Reg) : UnchangedBut [.memory] s (storeLoop s rs) := by
  suffices ∀ t, UnchangedBut [.memory] s t →
      UnchangedBut [.memory] s (rs.foldl (fun t i => t.setByte (s.indexed i.val) (s.v i)) t) from
    this s (UnchangedBut.refl _ s)
  induction rs with
  | nil => exact fun t h => h
  | cons i rs ih => exact fun t h => ih _ (h.trans (setByte_frame t _ _))

/-- The load loop from any state under way: each register of the list has its byte, the others stay. -/
theorem loadFold_v (s : State) : ∀ (rs : List Reg) (t : State) (r : Reg),
    (rs.foldl (fun t i => t.setV i (s.byte (s.indexed i.val))) t).v r =
      if r ∈ rs then s.byte (s.indexed r.val) else t.v r
  | [], _, _ => by simp
  | i :: rs, t, r => by
    rw [List.foldl_cons, loadFold_v s rs, State.setV_v]
    by_cases hr : r ∈ rs
    · simp [hr]
    · by_cases hi : r = i <;> simp [hr, hi]

/-- The load loop changes registers alone. -/
theorem loadLoop_frame (s : State) (rs : List Reg) : UnchangedBut [.regs] s (loadLoop s rs) := by
  suffices ∀ t, UnchangedBut [.regs] s t →
      UnchangedBut [.regs] s (rs.foldl (fun t i => t.setV i (s.byte (s.indexed i.val))) t) from
    this s (UnchangedBut.refl _ s)
  induction rs with
  | nil => exact fun t h => h
  | cons i rs ih => exact fun t h => ih _ (h.trans (setV_frame t _ _))

end Sys2Proof.Machine
end

