-- ==== Sys2Proof/Laws/PerInstr.lean ====
section
/-! SUPPORT. The per-instruction family EncodesItsRow: every instruction's word is of its own row of the opcode map
(30_encoding.md R94, R95). -/

namespace Sys2Proof.Laws.EncodesItsRow

/-- The word of `i` is of `i`'s row. -/
def Statement (i : Instr) : Prop := i.row.accepts (encode i) = true

/-- Format A words are of the row of their top nibble. -/
theorem of_wordA (top : BitVec 4) (nnn : BitVec 12) (p : Word) (hp : p.toNat = top.toNat * 4096) :
    (OpRow.mk 0xF000 p).accepts (wordA top nnn) = true := by
  have := nnn.isLt
  rw [accepts_iff _ _ 0 (by decide) rfl, toNat_wordA, hp]
  omega

/-- Format I words with a free byte are of the row of their top nibble. -/
theorem of_wordI (top : BitVec 4) (x : Reg) (kk : Byte) (p : Word) (hp : p.toNat = top.toNat * 4096) :
    (OpRow.mk 0xF000 p).accepts (wordI top x kk) = true := by
  have := kk.isLt
  rw [accepts_iff _ _ 0 (by decide) rfl, toNat_wordI, hp]
  omega

/-- Format F words are of the row of their top nibble and low byte. -/
theorem of_wordF (top : BitVec 4) (x : Reg) (kk : Byte) (p : Word) (hp : p.toNat = top.toNat * 4096 + kk.toNat) :
    (OpRow.mk 0xF0FF p).accepts (wordI top x kk) = true := by
  have := kk.isLt
  rw [accepts_iff _ _ 8 (by decide) rfl, toNat_wordI, hp]
  omega

/-- Format R words are of the row of their top and low nibbles. -/
theorem of_wordR (top : BitVec 4) (x y : Reg) (n : BitVec 4) (p : Word) (hp : p.toNat = top.toNat * 4096 + n.toNat) :
    (OpRow.mk 0xF00F p).accepts (wordR top x y n) = true := by
  have := n.isLt
  rw [accepts_iff _ _ 4 (by decide) rfl, toNat_wordR, hp]
  omega

/-- Format D words are of the row of their top nibble. -/
theorem of_wordD (top : BitVec 4) (x y : Reg) (n : BitVec 4) (p : Word) (hp : p.toNat = top.toNat * 4096) :
    (OpRow.mk 0xF000 p).accepts (wordR top x y n) = true := by
  have := n.isLt
  rw [accepts_iff _ _ 0 (by decide) rfl, toNat_wordR, hp]
  omega

theorem cls : Statement (.cls) := rfl
theorem ret : Statement (.ret) := rfl
theorem jp (nnn : BitVec 12) : Statement (.jp nnn) := of_wordA _ _ _ rfl
theorem call (nnn : BitVec 12) : Statement (.call nnn) := of_wordA _ _ _ rfl
theorem seByte (x : Reg) (kk : Byte) : Statement (.seByte x kk) := of_wordI _ _ _ _ rfl
theorem sneByte (x : Reg) (kk : Byte) : Statement (.sneByte x kk) := of_wordI _ _ _ _ rfl
theorem seReg (x y : Reg) : Statement (.seReg x y) := of_wordR _ _ _ _ _ rfl
theorem ldByte (x : Reg) (kk : Byte) : Statement (.ldByte x kk) := of_wordI _ _ _ _ rfl
theorem addByte (x : Reg) (kk : Byte) : Statement (.addByte x kk) := of_wordI _ _ _ _ rfl
theorem ldReg (x y : Reg) : Statement (.ldReg x y) := of_wordR _ _ _ _ _ rfl
theorem orReg (x y : Reg) : Statement (.orReg x y) := of_wordR _ _ _ _ _ rfl
theorem andReg (x y : Reg) : Statement (.andReg x y) := of_wordR _ _ _ _ _ rfl
theorem xorReg (x y : Reg) : Statement (.xorReg x y) := of_wordR _ _ _ _ _ rfl
theorem addReg (x y : Reg) : Statement (.addReg x y) := of_wordR _ _ _ _ _ rfl
theorem subReg (x y : Reg) : Statement (.subReg x y) := of_wordR _ _ _ _ _ rfl
theorem shr (x y : Reg) : Statement (.shr x y) := of_wordR _ _ _ _ _ rfl
theorem subnReg (x y : Reg) : Statement (.subnReg x y) := of_wordR _ _ _ _ _ rfl
theorem shl (x y : Reg) : Statement (.shl x y) := of_wordR _ _ _ _ _ rfl
theorem sneReg (x y : Reg) : Statement (.sneReg x y) := of_wordR _ _ _ _ _ rfl
theorem ldI (nnn : BitVec 12) : Statement (.ldI nnn) := of_wordA _ _ _ rfl
theorem jpV0 (nnn : BitVec 12) : Statement (.jpV0 nnn) := of_wordA _ _ _ rfl
theorem rnd (x : Reg) (kk : Byte) : Statement (.rnd x kk) := of_wordI _ _ _ _ rfl
theorem drw (x y : Reg) (n : Nat) : Statement (.drw x y n) := of_wordD _ _ _ _ _ rfl
theorem skp (x : Reg) : Statement (.skp x) := of_wordF _ _ _ _ rfl
theorem sknp (x : Reg) : Statement (.sknp x) := of_wordF _ _ _ _ rfl
theorem ldVxDt (x : Reg) : Statement (.ldVxDt x) := of_wordF _ _ _ _ rfl
theorem ldVxKey (x : Reg) : Statement (.ldVxKey x) := of_wordF _ _ _ _ rfl
theorem ldDtVx (x : Reg) : Statement (.ldDtVx x) := of_wordF _ _ _ _ rfl
theorem ldStVx (x : Reg) : Statement (.ldStVx x) := of_wordF _ _ _ _ rfl
theorem addI (x : Reg) : Statement (.addI x) := of_wordF _ _ _ _ rfl
theorem ldFont (x : Reg) : Statement (.ldFont x) := of_wordF _ _ _ _ rfl
theorem ldBcd (x : Reg) : Statement (.ldBcd x) := of_wordF _ _ _ _ rfl
theorem storeRegs (x : Reg) : Statement (.storeRegs x) := of_wordF _ _ _ _ rfl
theorem loadRegs (x : Reg) : Statement (.loadRegs x) := of_wordF _ _ _ _ rfl

end Sys2Proof.Laws.EncodesItsRow
end

