-- ==== Sys2Proof/Laws/Screen.lean ====
section
/-! SUPPORT. The framebuffer's read-after-write laws, and what one pixel, one row and a whole sprite do
(43_display.md R191 to R194). -/

namespace Sys2Proof.Machine

/-- A cell after a write of a cell on the screen. -/
theorem FrameBuf.cell_setCell (fb : FrameBuf) {x y : Nat} (cx cy : Nat) (b : Bool) (hx : x < 64) (hy : y < 32) :
    (fb.setCell x y b).cell cx cy = if cx = x ∧ cy = y then b else fb.cell cx cy := by
  have hset : fb.setCell x y b = fb.set y ((fb[y]'hy).set x b hx) hy := dif_pos ⟨hy, hx⟩
  rw [hset]
  unfold FrameBuf.cell
  by_cases hc : cy < 32 ∧ cx < 64
  · rw [dif_pos hc, dif_pos hc]
    by_cases h1 : cy = y
    · subst h1
      by_cases h2 : cx = x
      · subst h2; simp
      · have h2' : x ≠ cx := fun e => h2 e.symm
        simp [h2, h2']
    · have h1' : y ≠ cy := fun e => h1 e.symm
      simp [h1, h1']
  · rw [dif_neg hc, dif_neg hc, if_neg (by omega)]

/-- A clear screen has no set cell (43_display.md R190). -/
theorem FrameBuf.cell_clear (x y : Nat) : FrameBuf.clear.cell x y = false := by
  unfold FrameBuf.cell FrameBuf.clear
  split <;> simp

/-- What one sprite pixel does: the sprite bit it draws is XORed into its cell where that is on the screen, and counts as
a collision where the cell was set. -/
theorem drawPixel_spec (x0 row : Nat) (b : Byte) (d : Drawing) (c : Nat) (hrow : row < 32) :
    (∀ cx cy, (drawPixel x0 row b d c).1.cell cx cy =
      (d.1.cell cx cy ^^ (decide (cx = x0 + c ∧ cy = row ∧ cx < 64) && b.getLsbD (7 - c)))) ∧
    (drawPixel x0 row b d c).2 = (d.2 || (decide (x0 + c < 64) && b.getLsbD (7 - c) && d.1.cell (x0 + c) row)) := by
  unfold drawPixel
  by_cases h1 : x0 + c > 63
  · rw [if_pos h1]
    refine ⟨fun cx cy => ?_, ?_⟩
    · have : ¬ (cx = x0 + c ∧ cy = row ∧ cx < 64) := by omega
      simp [this]
    · have : ¬ (x0 + c < 64) := by omega
      simp [this]
  · rw [if_neg h1]
    have hx : x0 + c < 64 := by omega
    by_cases hb : b.getLsbD (7 - c) = true
    · rw [if_pos hb]
      refine ⟨fun cx cy => ?_, by simp [hb, hx]⟩
      simp only [FrameBuf.cell_setCell d.1 cx cy _ hx hrow, hb, Bool.and_true]
      by_cases h : cx = x0 + c ∧ cy = row
      · have : cx = x0 + c ∧ cy = row ∧ cx < 64 := ⟨h.1, h.2, by omega⟩
        rw [if_pos h, decide_eq_true this, h.1, h.2]
      · have : ¬ (cx = x0 + c ∧ cy = row ∧ cx < 64) := fun e => h ⟨e.1, e.2.1⟩
        rw [if_neg h, decide_eq_false this]
        simp
    · simp [hb]

/-- What the leftmost `m` pixels of a sprite row do: their bits are XORed in where they are on the screen, and collide
where a set bit meets a set cell. -/
theorem drawPixels_spec (x0 row : Nat) (b : Byte) (hrow : row < 32) (d : Drawing) : ∀ m : Nat,
    (∀ cx cy, ((List.range m).foldl (drawPixel x0 row b) d).1.cell cx cy =
      (d.1.cell cx cy ^^ (decide (cx < 64 ∧ cy = row ∧ x0 ≤ cx ∧ cx < x0 + m) && b.getLsbD (7 - (cx - x0))))) ∧
    (((List.range m).foldl (drawPixel x0 row b) d).2 = true ↔ d.2 = true ∨
      ∃ cx, cx < 64 ∧ x0 ≤ cx ∧ cx < x0 + m ∧ b.getLsbD (7 - (cx - x0)) = true ∧ d.1.cell cx row = true)
  | 0 => by
    refine ⟨fun cx cy => ?_, ?_⟩
    · have : ¬ (cx < 64 ∧ cy = row ∧ x0 ≤ cx ∧ cx < x0 + 0) := by omega
      rw [decide_eq_false this]
      simp
    · have : ¬ ∃ cx, cx < 64 ∧ x0 ≤ cx ∧ cx < x0 + 0 ∧ b.getLsbD (7 - (cx - x0)) = true ∧
          d.1.cell cx row = true := by
        rintro ⟨cx, h⟩
        omega
      rw [iff_false_intro this]
      simp
  | m + 1 => by
    obtain ⟨ih1, ih2⟩ := drawPixels_spec x0 row b hrow d m
    obtain ⟨p1, p2⟩ := drawPixel_spec x0 row b ((List.range m).foldl (drawPixel x0 row b) d) m hrow
    rw [List.range_succ, List.foldl_append, List.foldl_cons, List.foldl_nil]
    have hnot : ¬ (x0 + m < 64 ∧ row = row ∧ x0 ≤ x0 + m ∧ x0 + m < x0 + m) := by omega
    refine ⟨fun cx cy => ?_, ?_⟩
    · rw [p1, ih1]
      by_cases h : cx = x0 + m ∧ cy = row ∧ cx < 64
      · have h1 : ¬ (cx < 64 ∧ cy = row ∧ x0 ≤ cx ∧ cx < x0 + m) := by omega
        have h2 : cx < 64 ∧ cy = row ∧ x0 ≤ cx ∧ cx < x0 + (m + 1) := by omega
        have h3 : cx - x0 = m := by omega
        rw [decide_eq_true h, decide_eq_false h1, decide_eq_true h2, h3]
        simp
      · have h1 : (cx < 64 ∧ cy = row ∧ x0 ≤ cx ∧ cx < x0 + (m + 1)) ↔
            (cx < 64 ∧ cy = row ∧ x0 ≤ cx ∧ cx < x0 + m) := by omega
        rw [decide_eq_false h]
        simp only [h1, Bool.false_and, Bool.xor_false]
    · rw [p2, Bool.or_eq_true, ih2, ih1, decide_eq_false hnot]
      simp only [Bool.false_and, Bool.xor_false, Bool.and_eq_true, decide_eq_true_eq, or_assoc]
      refine or_congr Iff.rfl ⟨?_, ?_⟩
      · rintro (⟨cx, h1, h2, h3, h4⟩ | ⟨⟨h1, h2⟩, h3⟩)
        · exact ⟨cx, h1, h2, by omega, h4⟩
        · exact ⟨x0 + m, h1, by omega, by omega, by simpa using h2, h3⟩
      · rintro ⟨cx, h1, h2, h3, h4, h5⟩
        by_cases h : cx = x0 + m
        · subst h; exact .inr ⟨⟨h1, by simpa using h4⟩, h5⟩
        · exact .inl ⟨cx, h1, h2, by omega, h4, h5⟩

/-- What a sprite's `n` rows do: every sprite bit on the screen is XORed into its cell, and the collision tells whether a
set bit met a set cell. -/
theorem drawSprite_spec (s : State) (x0 y0 : Nat) : ∀ n : Nat,
    (∀ cx cy, (drawSprite s x0 y0 n).1.cell cx cy = (s.FB.cell cx cy ^^ spriteBit s x0 y0 n cx cy)) ∧
    ((drawSprite s x0 y0 n).2 = true ↔ ∃ cx cy, spriteBit s x0 y0 n cx cy = true ∧ s.FB.cell cx cy = true)
  | 0 => by
    have h : ∀ cx cy, spriteBit s x0 y0 0 cx cy = false := by
      intro cx cy
      have : ¬ (cx < 64 ∧ cy < 32 ∧ x0 ≤ cx ∧ cx < x0 + 8 ∧ y0 ≤ cy ∧ cy < y0 + 0) := by omega
      unfold spriteBit; rw [decide_eq_false this]; rfl
    exact ⟨fun cx cy => by simp [drawSprite, h], by simp [drawSprite, h]⟩
  | n + 1 => by
    obtain ⟨ih1, ih2⟩ := drawSprite_spec s x0 y0 n
    have hstep : drawSprite s x0 y0 (n + 1) = drawRow s x0 y0 (drawSprite s x0 y0 n) n := by
      unfold drawSprite; rw [List.range_succ, List.foldl_append, List.foldl_cons, List.foldl_nil]
    rw [hstep]
    unfold drawRow
    by_cases hr : y0 + n > 31
    · rw [if_pos hr]
      have h : ∀ cx cy, spriteBit s x0 y0 (n + 1) cx cy = spriteBit s x0 y0 n cx cy := by
        intro cx cy
        unfold spriteBit
        have : (cx < 64 ∧ cy < 32 ∧ x0 ≤ cx ∧ cx < x0 + 8 ∧ y0 ≤ cy ∧ cy < y0 + (n + 1)) ↔
          (cx < 64 ∧ cy < 32 ∧ x0 ≤ cx ∧ cx < x0 + 8 ∧ y0 ≤ cy ∧ cy < y0 + n) := by omega
        simp only [this]
      simp only [h]
      exact ⟨ih1, ih2⟩
    · rw [if_neg hr]
      obtain ⟨p1, p2⟩ := drawPixels_spec x0 (y0 + n) (s.byte (s.indexed n)) (by omega) (drawSprite s x0 y0 n) 8
      have hold : ∀ cx, spriteBit s x0 y0 n cx (y0 + n) = false := by
        intro cx
        have : ¬ (cx < 64 ∧ y0 + n < 32 ∧ x0 ≤ cx ∧ cx < x0 + 8 ∧ y0 ≤ y0 + n ∧ y0 + n < y0 + n) := by omega
        unfold spriteBit; rw [decide_eq_false this]; rfl
      have hnew : ∀ cx cy, spriteBit s x0 y0 (n + 1) cx cy =
          if cy = y0 + n then
            decide (cx < 64 ∧ cy = y0 + n ∧ x0 ≤ cx ∧ cx < x0 + 8) &&
              (s.byte (s.indexed n)).getLsbD (7 - (cx - x0))
          else spriteBit s x0 y0 n cx cy := by
        intro cx cy
        by_cases h : cy = y0 + n
        · subst h
          rw [if_pos rfl]
          unfold spriteBit State.indexed
          have : (cx < 64 ∧ y0 + n < 32 ∧ x0 ≤ cx ∧ cx < x0 + 8 ∧ y0 ≤ y0 + n ∧ y0 + n < y0 + (n + 1)) ↔
            (cx < 64 ∧ y0 + n = y0 + n ∧ x0 ≤ cx ∧ cx < x0 + 8) := by omega
          simp only [this, Nat.add_sub_cancel_left]
        · rw [if_neg h]
          unfold spriteBit
          have : (cx < 64 ∧ cy < 32 ∧ x0 ≤ cx ∧ cx < x0 + 8 ∧ y0 ≤ cy ∧ cy < y0 + (n + 1)) ↔
            (cx < 64 ∧ cy < 32 ∧ x0 ≤ cx ∧ cx < x0 + 8 ∧ y0 ≤ cy ∧ cy < y0 + n) := by omega
          simp only [this]
      refine ⟨fun cx cy => ?_, ?_⟩
      · rw [p1, ih1, hnew]
        by_cases h : cy = y0 + n
        · subst h; rw [hold]; simp
        · have : ¬ (cx < 64 ∧ cy = y0 + n ∧ x0 ≤ cx ∧ cx < x0 + 8) := by omega
          rw [decide_eq_false this]; simp [h]
      · rw [p2, ih2]
        constructor
        · rintro (⟨cx, cy, h1, h2⟩ | ⟨cx, h1, h2, h3, h4, h5⟩)
          · refine ⟨cx, cy, ?_, h2⟩
            rw [hnew]
            by_cases h : cy = y0 + n
            · subst h; rw [hold] at h1; cases h1
            · rw [if_neg h]; exact h1
          · refine ⟨cx, y0 + n, ?_, ?_⟩
            · rw [hnew, if_pos rfl, decide_eq_true ⟨h1, rfl, h2, h3⟩, h4]; rfl
            · rw [ih1, hold] at h5; simpa using h5
        · rintro ⟨cx, cy, h1, h2⟩
          rw [hnew] at h1
          by_cases h : cy = y0 + n
          · subst h
            rw [if_pos rfl, Bool.and_eq_true, decide_eq_true_eq] at h1
            exact .inr ⟨cx, h1.1.1, h1.1.2.2.1, h1.1.2.2.2, h1.2, by rw [ih1, hold, h2]; rfl⟩
          · rw [if_neg h] at h1
            exact .inl ⟨cx, cy, h1, h2⟩

end Sys2Proof.Machine
end

