-- ==== Sys2Proof/Laws/Step.lean ====
section
/-! SUPPORT. What a STEP can do, said once (40_step_cycle.md R123). -/

namespace Sys2Proof.Machine

/-- The decoder rejects a word only as an unknown opcode, by its whole word (30_encoding.md R97). -/
theorem decodeWord_error {op : Word} {r : Reject} (h : decodeWord op = .error r) : r = .unknownOpcode op := by
  unfold decodeWord at h
  split at h <;>
    (try unfold decodeFamily0 at h) <;> (try unfold decodeLowZero at h) <;> (try unfold decodeFamily8 at h) <;>
    (try unfold decodeFamilyE at h) <;> (try unfold decodeFamilyF at h) <;> (repeat' split at h) <;> cases h <;> rfl

/-- Fetch gives the word at pc where both its bytes are in memory (40_step_cycle.md R126). -/
theorem fetch_some {s : State} {op : Word} : s.fetch = some op ↔
    s.pc.toNat + 1 ≤ 0xFFF ∧ op = wordOfBytes (s.byte s.pc.toNat) (s.byte (s.pc.toNat + 1)) := by
  unfold State.fetch memTop
  split <;> simp_all [eq_comm]

/-- A STEP of a Running machine is the commit of its instruction on the decayed state. -/
theorem step_running {s : State} {i : Instr} (h : Running s) (hi : AtPc s i) :
    step s = commit s (exec i s.decay) := by
  unfold step stepPhases cycle
  rw [h.1, fetch_some.2 ⟨hi.1, rfl⟩]
  simp only [h.2.1, h.2.2, if_true, hi.2]
  rfl

/-- Everything a STEP that answers a next state can have done. -/
theorem step_cases {s u : State} (h : step s = .next u) :
    (∃ e, s.err = some e ∧ u = s.takeInput) ∨
    (s.err = none ∧ s.loaded = false ∧ u = (s.raise .noProgramLoaded).takeInput) ∨
    (s.err = none ∧ s.loaded = true ∧ s.blocked = true ∧ u = s.pollKey.takeInput) ∨
    (∃ op, Running s ∧ s.fetch = some op ∧ decodeWord op = .error (.unknownOpcode op) ∧
      u = (s.raise (.unknownOpcode op)).takeInput) ∨
    (∃ i t, Running s ∧ AtPc s i ∧ exec i s.decay = .next t ∧ u = (s.settle t).takeInput) := by
  unfold step stepPhases at h
  cases he : s.err with
  | some e =>
    rw [he] at h
    exact .inl ⟨e, rfl, (Host.Outcome.next.inj h).symm⟩
  | none =>
    rw [he] at h
    by_cases hl : s.loaded = true
    · by_cases hb : s.blocked = true
      · simp only [hl, hb, if_true] at h
        exact .inr (.inr (.inl ⟨rfl, hl, hb, (Host.Outcome.next.inj h).symm⟩))
      · simp only [hl, hb, if_true] at h
        have hr : Running s := ⟨he, hl, by simpa using hb⟩
        unfold cycle at h
        cases hf : s.fetch with
        | none => rw [hf] at h; cases h
        | some op =>
          rw [hf] at h
          simp only at h
          cases hd : decodeWord op with
          | ok i =>
            rw [hd] at h
            obtain ⟨t, ht, hu⟩ := commit_cases h
            have hop := fetch_some.1 hf
            exact .inr (.inr (.inr (.inr ⟨i, t, hr, ⟨hop.1, hop.2 ▸ hd⟩, ht, hu⟩)))
          | error r =>
            rw [hd] at h
            have := decodeWord_error hd
            subst this
            exact .inr (.inr (.inr (.inl ⟨op, hr, rfl, hd, (Host.Outcome.next.inj h).symm⟩)))
    · simp only [hl] at h
      exact .inr (.inl ⟨rfl, by simpa using hl, (Host.Outcome.next.inj h).symm⟩)

end Sys2Proof.Machine
end

