-- ==== Sys2Proof/Laws/Transactions.lean ====
section
/-! SUPPORT. What LOAD and RESET can do, said once (40_step_cycle.md R121, R134). -/

namespace Sys2Proof.Machine

/-- A LOAD of at most 3584 bytes is accepted in every state. -/
theorem load_accepted (s : State) (program : List Byte) (h : program.length ≤ 3584) :
    load program s = (s.loadedWith program, .ok) := by
  unfold load maxProg
  rw [if_neg (by omega)]

/-- A longer one is refused and changes nothing (60_exceptions.md R242). -/
theorem load_refused (s : State) (program : List Byte) (h : program.length > 3584) :
    load program s = (s, .error (.programTooLarge program.length)) := by
  unfold load maxProg
  rw [if_pos h]

/-- RESET leaves what a LOAD of no bytes leaves (the spec's decision D1). -/
theorem powerOn_eq_loadedWith (s : State) : s.powerOn = s.loadedWith [] := rfl

/-- One byte of memory after a LOAD: the program's where it lies, reset contents elsewhere. -/
theorem loadedWith_byte (s : State) (program : List Byte) (a : Nat) : (s.loadedWith program).byte a =
    if h : 0x200 ≤ a ∧ a < 0x200 + program.length then program[a - 0x200]'(by omega)
    else Memory.unlisted s.config a := by
  change Memory.read s.config (Memory.writeAll s.config [] progBase program) a = _
  rw [Memory.read_writeAll]
  rfl

end Sys2Proof.Machine
end

