-- ==== Sys2Proof/Tests/Slice0.lean ====
section
/-! SUPPORT. The model's own tests. Decoding: one word per row, its bits written out from the patterns of 30_encoding.md
R95. Effects: one STEP each, the expected results the spec's own derived vectors (95_test_vectors.md section 2), named by
their ids. Witnesses: for every statement with hypotheses, a concrete input that meets them. -/

namespace Sys2Proof.Tests

open Sys2Proof.Machine

/-! ### Small states -/

/-- The reset machine with one word placed at its pc. -/
def start (w : Nat) : State := State.reset.withFetchWord 16 w

/-- The reset machine with pc at `a` and one word placed there. -/
def startAt (a : Word) (w : Nat) : State := (State.reset.setPc a).withFetchWord 16 w

/-- Give registers values. -/
def withV (s : State) (rs : List (Reg × Byte)) : State := rs.foldl (fun t r => t.setV r.1 r.2) s

/-- Give memory bytes from an address on. -/
def withBytes (s : State) (a : Nat) (bs : List Byte) : State :=
  { s with mem := Memory.writeAll s.config s.mem a bs }

/-- Line up one STEP's inputs. -/
def withInput (s : State) (keys : BitVec 16) (now : Nat) (rnd : Byte) : State :=
  { s with host := { s.host with inputs := [{ keys := keys, now := now, rnd := rnd }] } }

/-- Give the stack its first entries. -/
def withStack (s : State) (sp : Fin 17) (e0 e1 : Word) : State :=
  { s with sp := sp, stack := (s.stack.set 0 e0).set 1 e1 }

/-- Light screen cells. -/
def withCells (s : State) (cells : List (Nat × Nat)) : State :=
  cells.foldl (fun t c => t.setFB (t.FB.setCell c.1 c.2 true)) s

/-- What one STEP makes of a state, read through `f`; none where it stops. -/
def seen {α : Type} (s : State) (f : State → α) : Option α :=
  match step s with
  | .next t => some (f t)
  | .fault _ => none
  | .refused _ => none

/-- The error one STEP latches. -/
def raised (s : State) : Option (Option Error) := seen s fun t => t.err

/-! ### Well-formedness -/

theorem test_drw_sixteen_rows_refused : ¬ Instr.WellFormed (.drw 0 0 16) := by decide
theorem test_drw_fifteen_rows_accepted : Instr.WellFormed (.drw 15 15 15) := by decide

/-! ### Decoding (30_encoding.md R95: pattern and fields, every bit written out) -/

theorem test_decode_cls : decodeTableWord 16 0b0000000011100000 = some (.cls) := by decide
theorem test_decode_ret : decodeTableWord 16 0b0000000011101110 = some (.ret) := by decide
theorem test_decode_jp : decodeTableWord 16 0b0001001010100000 = some (.jp 0x2A0) := by decide
theorem test_decode_call : decodeTableWord 16 0b0010001100000001 = some (.call 0x301) := by decide
theorem test_decode_seByte : decodeTableWord 16 0b0011101001000010 = some (.seByte 10 0x42) := by decide
theorem test_decode_sneByte : decodeTableWord 16 0b0100101001000011 = some (.sneByte 10 0x43) := by decide
theorem test_decode_seReg : decodeTableWord 16 0b0101000100100000 = some (.seReg 1 2) := by decide
theorem test_decode_ldByte : decodeTableWord 16 0b0110111110101011 = some (.ldByte 15 0xAB) := by decide
theorem test_decode_addByte : decodeTableWord 16 0b0111000100000010 = some (.addByte 1 0x02) := by decide
theorem test_decode_ldReg : decodeTableWord 16 0b1000000100100000 = some (.ldReg 1 2) := by decide
theorem test_decode_orReg : decodeTableWord 16 0b1000000100100001 = some (.orReg 1 2) := by decide
theorem test_decode_andReg : decodeTableWord 16 0b1000000100100010 = some (.andReg 1 2) := by decide
theorem test_decode_xorReg : decodeTableWord 16 0b1000000100100011 = some (.xorReg 1 2) := by decide
theorem test_decode_addReg : decodeTableWord 16 0b1000000100100100 = some (.addReg 1 2) := by decide
theorem test_decode_subReg : decodeTableWord 16 0b1000000100100101 = some (.subReg 1 2) := by decide
theorem test_decode_shr : decodeTableWord 16 0b1000101010110110 = some (.shr 10 11) := by decide
theorem test_decode_subnReg : decodeTableWord 16 0b1000000100100111 = some (.subnReg 1 2) := by decide
theorem test_decode_shl : decodeTableWord 16 0b1000101010111110 = some (.shl 10 11) := by decide
theorem test_decode_sneReg : decodeTableWord 16 0b1001000100100000 = some (.sneReg 1 2) := by decide
theorem test_decode_ldI : decodeTableWord 16 0b1010001011110000 = some (.ldI 0x2F0) := by decide
theorem test_decode_jpV0 : decodeTableWord 16 0b1011111111111110 = some (.jpV0 0xFFE) := by decide
theorem test_decode_rnd : decodeTableWord 16 0b1100001100001111 = some (.rnd 3 0x0F) := by decide
theorem test_decode_drw : decodeTableWord 16 0b1101000100100101 = some (.drw 1 2 5) := by decide
theorem test_decode_skp : decodeTableWord 16 0b1110010110011110 = some (.skp 5) := by decide
theorem test_decode_sknp : decodeTableWord 16 0b1110010110100001 = some (.sknp 5) := by decide
theorem test_decode_ldVxDt : decodeTableWord 16 0b1111001000000111 = some (.ldVxDt 2) := by decide
theorem test_decode_ldVxKey : decodeTableWord 16 0b1111001100001010 = some (.ldVxKey 3) := by decide
theorem test_decode_ldDtVx : decodeTableWord 16 0b1111001000010101 = some (.ldDtVx 2) := by decide
theorem test_decode_ldStVx : decodeTableWord 16 0b1111001100011000 = some (.ldStVx 3) := by decide
theorem test_decode_addI : decodeTableWord 16 0b1111001000011110 = some (.addI 2) := by decide
theorem test_decode_ldFont : decodeTableWord 16 0b1111001000101001 = some (.ldFont 2) := by decide
theorem test_decode_ldBcd : decodeTableWord 16 0b1111001000110011 = some (.ldBcd 2) := by decide
theorem test_decode_storeRegs : decodeTableWord 16 0b1111001101010101 = some (.storeRegs 3) := by decide
theorem test_decode_loadRegs : decodeTableWord 16 0b1111001101100101 = some (.loadRegs 3) := by decide

/-- Words near the table are no instructions (95_test_vectors.md section 2.7). -/
theorem test_decode_unknown : [0x0000, 0x00E1, 0x0EE0, 0x5121, 0x8128, 0x812F, 0x9121, 0xE19F, 0xF10B, 0xF185].map
    (decodeTableWord 16) = List.replicate 10 none := by decide

/-! ### Effects (95_test_vectors.md section 2) -/

theorem test_jp_highest : -- C4
    seen (start 0x1FFE) (fun t => t.pc) = some 0xFFE := by decide
theorem test_jp_odd : -- C2
    raised (start 0x12A1) = some (some (.addressOverflow 0x2A1)) := by decide
theorem test_call_at_top : -- C24
    seen (startAt 0xFFE 0x2400) (fun t => (t.stack[0], t.sp, t.pc)) = some (0x1000, 1, 0x400) := by decide
theorem test_call_full_stack_first : -- C6b
    raised ({ start 0x2301 with sp := 16 }) = some (some (.stackOverflow)) := by decide
theorem test_ret_keeps_entry : -- C9
    seen (withStack (start 0x00EE) 2 0x206 0x30A) (fun t => (t.sp, t.pc, t.stack[1])) = some (1, 0x30A, 0x30A) := by decide
theorem test_ret_empty : -- C8
    raised (start 0x00EE) = some (some (.stackUnderflow)) := by decide
theorem test_jpV0 : -- C10
    seen (withV (start 0xB300) [(0, 4)]) (fun t => t.pc) = some 0x304 := by decide
theorem test_jpV0_untruncated : -- C11b
    raised (withV (start 0xBFFF) [(0, 0xFF)]) = some (some (.addressOverflow 0x10FE)) := by decide
theorem test_seByte_taken : -- C13
    seen (withV (start 0x3A42) [(10, 0x42)]) (fun t => t.pc) = some 0x204 := by decide
theorem test_seByte_at_ffc : -- C23
    seen (startAt 0xFFC 0x3001) (fun t => t.pc) = some 0xFFE := by decide
theorem test_sneByte_taken : -- C16
    seen (withV (start 0x4A42) [(10, 0x43)]) (fun t => t.pc) = some 0x204 := by decide
theorem test_sneByte_not_taken : -- C15
    seen (withV (start 0x4A42) [(10, 0x42)]) (fun t => t.pc) = some 0x202 := by decide
theorem test_seReg_not_taken : -- C18
    seen (withV (start 0x5120) [(1, 7), (2, 8)]) (fun t => t.pc) = some 0x202 := by decide
theorem test_seReg_same : -- C20b
    seen (withV (start 0x5330) [(3, 9)]) (fun t => t.pc) = some 0x204 := by decide
theorem test_sneReg_taken : -- C19
    seen (withV (start 0x9120) [(1, 7), (2, 8)]) (fun t => t.pc) = some 0x204 := by decide
theorem test_sneReg_same : -- C20
    seen (withV (start 0x9330) [(3, 9)]) (fun t => t.pc) = some 0x202 := by decide
theorem test_ldByte_vf : -- A1
    seen (start 0x6FAB) (fun t => (t.v 15, t.pc)) = some (0xAB, 0x202) := by decide
theorem test_ldByte_at_top : -- C21
    seen (startAt 0xFFE 0x60AA) (fun t => (t.v 0, t.err)) = some (0, some (.addressOverflow 0x1000)) := by decide
theorem test_addByte_wraps : -- A2
    seen (withV (start 0x7102) [(1, 0xFF), (15, 0x55)]) (fun t => (t.v 1, t.v 15)) = some (1, 0x55) := by decide
theorem test_addByte_vf : -- A3
    seen (withV (start 0x7F01) [(15, 0xFF)]) (fun t => t.v 15) = some 0 := by decide
theorem test_ldReg : -- A5
    seen (withV (start 0x8120) [(1, 1), (2, 0x9C)]) (fun t => (t.v 1, t.v 2)) = some (0x9C, 0x9C) := by decide
theorem test_orReg : -- A6
    seen (withV (start 0x8121) [(1, 0xF0), (2, 0x0C), (15, 0x77)]) (fun t => (t.v 1, t.v 15)) = some (0xFC, 0x77) := by decide
theorem test_andReg : -- A7
    seen (withV (start 0x8122) [(1, 0xF0), (2, 0x3C), (15, 0x77)]) (fun t => (t.v 1, t.v 15)) = some (0x30, 0x77) := by decide
theorem test_xorReg : -- A8
    seen (withV (start 0x8123) [(1, 0xF0), (2, 0x3C), (15, 0x77)]) (fun t => (t.v 1, t.v 15)) = some (0xCC, 0x77) := by decide
theorem test_addReg_into_vf : -- A13
    seen (withV (start 0x8F14) [(15, 0xF0), (1, 0x20)]) (fun t => t.v 15) = some 1 := by decide
theorem test_addReg_no_carry_at_255 : -- A12
    seen (withV (start 0x8124) [(1, 0x80), (2, 0x7F)]) (fun t => (t.v 1, t.v 15)) = some (0xFF, 0) := by decide
theorem test_subReg_equal : -- A17
    seen (withV (start 0x8125) [(1, 5), (2, 5)]) (fun t => (t.v 1, t.v 15)) = some (0, 1) := by decide
theorem test_subReg_borrow : -- A16
    seen (withV (start 0x8125) [(1, 3), (2, 5)]) (fun t => (t.v 1, t.v 15)) = some (0xFE, 0) := by decide
theorem test_shr_ignores_y : -- A26
    seen (withV (start 0x8126) [(1, 0x81), (2, 0xFF)]) (fun t => (t.v 1, t.v 15, t.v 2)) = some (0x40, 1, 0xFF) := by decide
theorem test_shr_clears_flag : -- A27
    seen (withV (start 0x8126) [(1, 2), (15, 1)]) (fun t => (t.v 1, t.v 15)) = some (1, 0) := by decide
theorem test_subnReg : -- A23
    seen (withV (start 0x8127) [(1, 5), (2, 3)]) (fun t => (t.v 1, t.v 15)) = some (0xFE, 0) := by decide
theorem test_subnReg_into_vf : -- A25
    seen (withV (start 0x8F17) [(15, 2), (1, 1)]) (fun t => t.v 15) = some 0 := by decide
theorem test_shl_ignores_y : -- A30
    seen (withV (start 0x812E) [(1, 0x81), (2, 0xFF)]) (fun t => (t.v 1, t.v 15, t.v 2)) = some (2, 1, 0xFF) := by decide
theorem test_shl_into_vf : -- A33
    seen (withV (start 0x8F0E) [(15, 1)]) (fun t => t.v 15) = some 0 := by decide
theorem test_rnd_masks : -- A34
    seen (withInput (start 0xC30F) 0 0 0xB7) (fun t => t.v 3) = some 7 := by decide
theorem test_drw_clips_right : -- G3
    seen (withBytes (withV ((start 0xD121).setI 0x300) [(1, 0x3C)]) 0x300 [0xFF]) (fun t => (t.FB.cell 60 0, t.FB.cell 63 0, t.FB.cell 0 0, t.FB.cell 0 1, t.v 15)) = some (true, true, false, false, 0) := by decide
theorem test_drw_clipped_row_needs_memory : -- G8
    raised (withV ((start 0xD122).setI 0xFFF) [(2, 0x1F)]) = some (some (.addressOverflow 0x1000)) := by decide
theorem test_cls_keeps_vf : -- G12
    seen (withCells (withV (start 0x00E0) [(15, 1)]) [(5, 5), (63, 31)]) (fun t => (t.FB.cell 5 5, t.FB.cell 63 31, t.v 15)) = some (false, false, 1) := by decide
theorem test_skp_down : -- K1
    seen (withInput (withV (start 0xE59E) [(5, 0x0A)]) 0x0400 0 0) (fun t => t.pc) = some 0x204 := by decide
theorem test_skp_no_mask : -- K3
    seen (withInput (withV (start 0xE59E) [(5, 0x1A)]) 0xFFFF 0 0) (fun t => t.pc) = some 0x202 := by decide
theorem test_sknp_down : -- K3c
    seen (withInput (withV (start 0xE5A1) [(5, 0x0A)]) 0x0400 0 0) (fun t => t.pc) = some 0x202 := by decide
theorem test_sknp_no_mask : -- K4
    seen (withInput (withV (start 0xE5A1) [(5, 0x10)]) 0xFFFF 0 0) (fun t => t.pc) = some 0x204 := by decide
theorem test_ldVxKey_lowest_at_once : -- K5
    seen (withInput (withV (start 0xF30A) [(3, 0xEE)]) 0x0088 0 0) (fun t => (t.v 3, t.blocked, t.pc)) = some (3, false, 0x202) := by decide
theorem test_ldVxKey_blocks_and_decays : -- K6
    seen (withInput { start 0xF30A with DT := 5 } 0 7 0) (fun t => (t.blocked, t.keyReg, t.pc, t.DT, t.dtRef)) = some (true, 3, 0x202, 4, 7) := by decide
theorem test_blocked_key_unblocks : -- K8
    seen (withInput { start 0xF30A with blocked := true, keyReg := 3, DT := 4, dtRef := 7 } 0x8080 200 9) (fun t => (t.v 3, t.blocked, t.pc, t.DT, t.dtRef)) = some (7, false, 0x200, 4, 7) := by decide
theorem test_ldVxDt_after_decay : -- T3
    seen (withInput { start 0xF207 with DT := 9, dtRef := 2 } 0 11 0) (fun t => (t.v 2, t.DT, t.dtRef)) = some (8, 8, 11) := by decide
theorem test_ldVxDt_zero_timer : -- T5
    seen (withInput (start 0xF207) 0 1000 0) (fun t => (t.v 2, t.DT, t.dtRef)) = some (0, 0, 0) := by decide
theorem test_ldDtVx_over_decay : -- T8
    seen (withInput (withV { start 0xF015 with DT := 5 } [(0, 0x20)]) 0 9 0) (fun t => (t.DT, t.dtRef)) = some (0x20, 9) := by decide
theorem test_ldStVx : -- T2
    seen (withInput (withV (start 0xF318) [(3, 0x1E)]) 0 40 0) (fun t => (t.ST, t.stRef, t.DT, t.dtRef)) = some (0x1E, 40, 0, 0) := by decide
theorem test_ldI_odd : -- I1b
    seen (start 0xAFFF) (fun t => t.I) = some 0xFFF := by decide
theorem test_addI_top : -- I4
    seen (withV ((start 0xF21E).setI 0xF01) [(2, 0xFE)]) (fun t => t.I) = some 0xFFF := by decide
theorem test_addI_over : -- I3
    raised (withV ((start 0xF21E).setI 0xFFF) [(2, 1)]) = some (some (.addressOverflow 0x1000)) := by decide
theorem test_ldFont : -- I6
    seen (withV (start 0xF029) [(0, 5)]) (fun t => t.I) = some 0x019 := by decide
theorem test_ldFont_no_mask : -- I8
    seen (withV (start 0xF029) [(0, 0xFF)]) (fun t => t.I) = some 0x4FB := by decide
theorem test_ldBcd_top : -- I11
    seen (withV ((start 0xF033).setI 0xFFD) [(0, 0xFF)]) (fun t => (t.byte 0xFFD, t.byte 0xFFE, t.byte 0xFFF)) = some (2, 5, 5) := by decide
theorem test_ldBcd_no_partial_store : -- I12
    seen (withV ((start 0xF033).setI 0xFFE) [(0, 0xFF)]) (fun t => (t.byte 0xFFE, t.byte 0xFFF, t.err)) = some (0, 0, some (.addressOverflow 0x1000)) := by decide
theorem test_storeRegs : -- I13
    seen (withV ((start 0xF355).setI 0x400) [(0, 0x11), (3, 0x44), (4, 0x55)]) (fun t => (t.byte 0x400, t.byte 0x403, t.byte 0x404, t.I)) = some (0x11, 0x44, 0, 0x400) := by decide
theorem test_loadRegs_font : -- I19
    seen (start 0xF465) (fun t => (t.v 0, t.v 1, t.v 4, t.v 5)) = some (0xF0, 0x90, 0xF0, 0) := by decide
theorem test_loadRegs_over : -- I18
    seen (withBytes ((start 0xF165).setI 0xFFF) 0xFFF [0x7E]) (fun t => (t.v 0, t.err)) = some (0, some (.addressOverflow 0x1000)) := by decide
theorem test_failing_step_keeps_timers : -- T11
    seen (withInput { start 0x0000 with DT := 5 } 0 10 0) (fun t => (t.DT, t.dtRef, t.err)) = some (5, 0, some (.unknownOpcode 0)) := by decide
theorem test_reset_then_step : -- E1
    raised (State.reset) = some (some (.noProgramLoaded)) := by decide

/-- A single-byte program runs `JP 0x200`: its second byte is the reset zero (95_test_vectors.md E4). -/
theorem test_load_odd_length : seen (load [0x12] State.reset).1 (fun t => (t.pc, t.err)) = some (0x200, none) := by
  decide

/-! ### Witnesses: inputs that meet the statements' hypotheses -/
theorem witness_wellFormed : Instr.WellFormed (.drw 15 15 15) ∧ Instr.WellFormed (.drw 0 0 0) := by decide
theorem witness_decodes : decodeWord 0xDFFF = .ok (.drw 15 15 15) := rfl
theorem witness_unknown_words : [0x0000, 0x0FFF, 0x5001, 0x8008, 0x800F, 0x900F, 0xE000, 0xFFFF].map
    (fun w => decide (decodeTableWord 16 w = none)) = List.replicate 8 true := by decide
theorem witness_unknownWord : UnknownWord 0x00E1 ∧ UnknownWord 0xF0FF := by
  unfold UnknownWord
  decide

/-- A Running machine at an instruction that completes, and at one that raises. -/
theorem witness_running : Running (start 0x1FFE) ∧ AtPc (start 0x1FFE) (.jp 0xFFE) := ⟨by decide, by decide, rfl⟩
theorem witness_exec_completes : ∃ t, exec (.jp 0xFFE) (start 0x1FFE).decay = .next t ∧ t.err = none :=
  ⟨_, rfl, by decide⟩
theorem witness_exec_raises : Running (start 0x12A1) ∧ AtPc (start 0x12A1) (.jp 0x2A1) ∧
    ∃ t, exec (.jp 0x2A1) (start 0x12A1).decay = .next t ∧ t.err = some (.addressOverflow 0x2A1) :=
  ⟨by decide, ⟨by decide, rfl⟩, _, rfl, by decide⟩
theorem witness_failing_step : (start 0x12A1).err = none ∧
    ∃ t, step (start 0x12A1) = .next t ∧ t.err = some (.addressOverflow 0x2A1) := ⟨rfl, _, rfl, by decide⟩
theorem witness_latched : (start 0x12A1 |>.raise .stackOverflow).err = some .stackOverflow := rfl
theorem witness_empty : State.reset.err = none ∧ State.reset.loaded = false := ⟨rfl, rfl⟩
theorem witness_unknown_at_pc : Running (startAt 0xFFE 0x00E1) ∧ (startAt 0xFFE 0x00E1).pc.toNat + 1 ≤ 0xFFF ∧
    0x00E1 = wordOfBytes ((startAt 0xFFE 0x00E1).byte 0xFFE) ((startAt 0xFFE 0x00E1).byte 0xFFF) := by decide

/-! The blocking machine's rows: another instruction; a key down, none down at FX0A (at the last pc it can leave); none
down, a key down while blocked; a failing STEP; the largest program. -/
theorem witness_other_instruction : Running (start 0x6000) ∧ AtPc (start 0x6000) (.ldByte 0 0) ∧
    (∀ x, Instr.ldByte 0 0 ≠ .ldVxKey x) ∧ ∃ t, step (start 0x6000) = .next t :=
  ⟨by decide, ⟨by decide, rfl⟩, by decide, _, rfl⟩
theorem witness_key_down : Running (withInput (startAt 0xFFC 0xF30A) 0x8000 0 0) ∧
    AtPc (withInput (startAt 0xFFC 0xF30A) 0x8000 0 0) (.ldVxKey 3) ∧
    LegalPc ((withInput (startAt 0xFFC 0xF30A) 0x8000 0 0).pc.toNat + 2) ∧ LowestDown 0x8000 15 :=
  ⟨by decide, ⟨by decide, rfl⟩, by decide, by decide⟩
theorem witness_no_key_down : Running (startAt 0xFFC 0xF30A) ∧ AtPc (startAt 0xFFC 0xF30A) (.ldVxKey 3) ∧
    LegalPc ((startAt 0xFFC 0xF30A).pc.toNat + 2) ∧ NoneDown (startAt 0xFFC 0xF30A).input.keys :=
  ⟨by decide, ⟨by decide, rfl⟩, by decide, by decide⟩
theorem witness_blocked_no_key : ({ start 0x6000 with blocked := true } : State).err = none ∧
    ({ start 0x6000 with blocked := true } : State).loaded = true ∧
    NoneDown ({ start 0x6000 with blocked := true } : State).input.keys := by decide
theorem witness_blocked_key : (withInput { start 0x6000 with blocked := true } 0x8001 0 0).err = none ∧
    (withInput { start 0x6000 with blocked := true } 0x8001 0 0).blocked = true ∧
    LowestDown (withInput { start 0x6000 with blocked := true } 0x8001 0 0).input.keys 0 := by decide
theorem witness_largest_program : (List.replicate 3584 (0 : Byte)).length ≤ 3584 :=
  le_of_eq List.length_replicate

/-! The invariant: the reset machine with a program's word, with a full stack, and a step of each. -/
theorem witness_inv : Inv (withStack (start 0x00EE) 2 0x206 0x1000) where
  mem_canonical := by decide
  index_in_memory := by decide
  pc_legal := by decide
  stack_entries := by decide
  blocked_loaded := by decide
  err_of_step := fun n h => by cases h
  err_info := fun e h => by cases h
theorem witness_inv_steps : ∃ t, step (withStack (start 0x00EE) 2 0x206 0x1000) = .next t ∧
    t.err = some (.addressOverflow 0x1000) := ⟨_, rfl, by decide⟩
theorem witness_address_overflow : Inv (withV (start 0xBFFF) [(0, 0xFF)]) ∧
    ∃ t, step (withV (start 0xBFFF) [(0, 0xFF)]) = .next t ∧ t.err = some (.addressOverflow 0x10FE) :=
  ⟨⟨by decide, by decide, by decide, by decide, by decide, (fun n h => by cases h), (fun e h => by cases h)⟩,
    _, rfl, by decide⟩

/-! Who writes what: an instruction that answers, and a register it may not write. -/
theorem witness_answers : (∃ t, exec (.addReg 1 2) (start 0x8124) = .next t) ∧ ¬ mayWrite (.addReg 1 2) 2 :=
  ⟨⟨_, rfl⟩, by unfold mayWrite; decide⟩

/-! Statements whose hypothesis is that the next pc is legal: the lowest and the highest such pc. -/
theorem witness_next_pc_legal : LegalPc (State.reset.pc.toNat + 2) ∧
    LegalPc ((State.reset.setPc 0xFFC).pc.toNat + 2) := by decide
theorem witness_inputs_lined_up : ∃ inp rest, State.reset.host.inputs = inp :: rest := ⟨_, _, rfl⟩

/-! Jumps: the least and greatest legal target, an odd one, one below and one above. -/
theorem witness_jump_targets : LegalPc 0x200 ∧ LegalPc 0xFFE ∧ ¬ LegalPc 0x1FE ∧ ¬ LegalPc 0xFFF ∧
    ¬ LegalPc (0xFFE + ((withV (start 0xBFFE) [(0, 2)]).v 0).toNat) ∧
    LegalPc (0xF00 + ((withV (start 0xBF00) [(0, 0xFE)]).v 0).toNat) := by decide

/-! Skips: the next pc legal where the skip is taken and where it is not, and past 0xFFE. -/
theorem witness_skip_targets :
    LegalPc ((startAt 0xFFA 0x3000).pc.toNat + if (startAt 0xFFA 0x3000).v 0 = 0 then 4 else 2) ∧
    LegalPc ((startAt 0xFFC 0x3001).pc.toNat + if (startAt 0xFFC 0x3001).v 0 = 1 then 4 else 2) ∧
    ¬ LegalPc ((startAt 0xFFC 0x3000).pc.toNat + if (startAt 0xFFC 0x3000).v 0 = 0 then 4 else 2) := by decide
theorem witness_key_skip_targets : Down (withInput (withV (start 0xE59E) [(5, 15)]) 0x8000 0 0).input.keys 15 ∧
    ¬ Down (withInput (withV (start 0xE59E) [(5, 16)]) 0xFFFF 0 0).input.keys 16 := by decide

/-! Returns and calls at both ends of the stack. -/
theorem witness_return_empty : (start 0x00EE).sp = 0 := rfl
theorem witness_return_entries : (withStack (start 0x00EE) 1 0x206 0).sp.val = (0 : Fin 16).val + 1 ∧
    LegalPc (withStack (start 0x00EE) 1 0x206 0).stack[0].toNat ∧
    ({ start 0x00EE with sp := 16, stack := Vector.replicate 16 0x206 } : State).sp.val = (15 : Fin 16).val + 1 ∧
    (withStack (start 0x00EE) 1 0x1000 0).stack[0].toNat = 0x1000 := by decide
theorem witness_call_depths : ({ start 0x2300 with sp := 16 } : State).sp.val = 16 ∧
    ({ start 0x2300 with sp := 15 } : State).sp.val = (15 : Fin 16).val ∧ LegalPc (0x300 : BitVec 12).toNat ∧
    ¬ LegalPc (0x301 : BitVec 12).toNat := by decide
theorem witness_call_then_return : ∃ t u, exec (.call 0x300) { start 0x2300 with sp := 15 } = .next t ∧
    Unchanged t u .stack ∧ u.v 0 = 7 ∧ LegalPc (0x300 : BitVec 12).toNat ∧
    LegalPc (({ start 0x2300 with sp := 15 } : State).pc.toNat + 2) ∧
    ({ start 0x2300 with sp := 15 } : State).sp.val < 16 :=
  ⟨_, withV (({ start 0x2300 with sp := 15 } : State).push 0x202 (by decide)) [(0, 7)], rfl, ⟨rfl, rfl⟩, by decide,
    by decide, by decide, by decide⟩
theorem witness_at_the_top : (startAt 0xFFE 0x6000).pc = 0xFFE ∧ GoesOn (.ldByte 0 0) (startAt 0xFFE 0x6000) :=
  ⟨rfl, trivial⟩

/-- Each instruction with a check of its own goes on at the last value the check lets through; N = 0 always. -/
theorem witness_checked_at_the_top :
    GoesOn (.addI 2) (withV ((startAt 0xFFE 0xF21E).setI 0xF01) [(2, 0xFE)]) ∧
    GoesOn (.ldBcd 0) ((startAt 0xFFE 0xF033).setI 0xFFD) ∧ GoesOn (.storeRegs 15) ((startAt 0xFFE 0xFF55).setI 0xFF0) ∧
    GoesOn (.loadRegs 15) ((startAt 0xFFE 0xFF65).setI 0xFF0) ∧ GoesOn (.drw 0 0 15) ((startAt 0xFFE 0xD00F).setI 0xFF1) ∧
    GoesOn (.drw 0 0 0) ((startAt 0xFFE 0xD000).setI 0xFFF) := by
  unfold GoesOn
  decide

/-- Each skip goes on where it is not taken. -/
theorem witness_skips_not_taken_at_the_top :
    GoesOn (.seByte 0 1) (startAt 0xFFE 0x3001) ∧ GoesOn (.sneByte 0 0) (startAt 0xFFE 0x4000) ∧
    GoesOn (.seReg 0 1) (withV (startAt 0xFFE 0x5010) [(1, 1)]) ∧ GoesOn (.sneReg 0 1) (startAt 0xFFE 0x9010) ∧
    GoesOn (.skp 0) (startAt 0xFFE 0xE09E) ∧ GoesOn (.sknp 0) (withInput (startAt 0xFFE 0xE0A1) 1 0 0) := by
  unfold GoesOn
  decide
theorem witness_own_check : ({ start 0x2301 with sp := 16 } : State).sp.val = 16 ∧
    ((startAt 0xFFE 0xF155).setI 0xFFF).pc = 0xFFE ∧
    ((startAt 0xFFE 0xF155).setI 0xFFF).I.toNat + (1 : Reg).val > 0xFFF := by decide
theorem witness_jump_to_self : Running (start 0x1200) ∧ AtPc (start 0x1200) (.jp 0x200) ∧
    (start 0x1200).pc.toNat = (0x200 : BitVec 12).toNat ∧ LegalPc (start 0x1200).pc.toNat :=
  ⟨by decide, ⟨by decide, rfl⟩, by decide, by decide⟩

/-! Timers: a decrement due at exactly TICK, one not due, a timer at zero; a STEP of each timer instruction. -/
theorem witness_timer_due : Running (withInput { start 0x6000 with DT := 9, dtRef := 2 } 0 3 0) ∧
    AtPc (withInput { start 0x6000 with DT := 9, dtRef := 2 } 0 3 0) (.ldByte 0 0) ∧
    ∃ t, step (withInput { start 0x6000 with DT := 9, dtRef := 2 } 0 3 0) = .next t ∧ t.err = none ∧ t.DT = 8 :=
  ⟨by decide, ⟨by decide, rfl⟩, _, rfl, by decide, by decide⟩
theorem witness_timer_not_due : ∃ t, step (withInput { start 0x6000 with DT := 9, dtRef := 2 } 0 2 0) = .next t ∧
    t.err = none ∧ t.DT = 9 := ⟨_, rfl, by decide, by decide⟩
theorem witness_timer_instructions :
    LegalPc ((start 0xF207).pc.toNat + 2) ∧ AtPc (start 0xF207) (.ldVxDt 2) ∧ AtPc (start 0xF215) (.ldDtVx 2) ∧
    AtPc (start 0xF218) (.ldStVx 2) ∧ Running (start 0xF207) ∧ Running (start 0xF215) ∧ Running (start 0xF218) :=
  ⟨by decide, ⟨by decide, rfl⟩, ⟨by decide, rfl⟩, ⟨by decide, rfl⟩, by decide, by decide, by decide⟩
theorem witness_sound_step : ∃ t, step (start 0xF318) = .next t := ⟨_, rfl⟩
theorem witness_no_rnd : (∃ inp rest, (start 0x6000).host.inputs = inp :: rest) ∧
    ∀ x kk, ¬ AtPc (start 0x6000) (.rnd x kk) :=
  ⟨⟨_, _, rfl⟩, fun x kk h => by
    have e : decodeWord (wordOfBytes ((start 0x6000).byte (start 0x6000).pc.toNat)
        ((start 0x6000).byte ((start 0x6000).pc.toNat + 1))) = .ok (.ldByte 0 0) := rfl
    have h2 := h.2
    rw [e] at h2
    cases h2⟩

/-! Memory instructions: the last address inside memory and the first outside. -/
theorem witness_addI_over : (withV ((start 0xF21E).setI 0xFFF) [(2, 1)]).I.toNat +
    ((withV ((start 0xF21E).setI 0xFFF) [(2, 1)]).v 2).toNat > 0xFFF := by decide
theorem witness_addI_within : (withV ((start 0xF21E).setI 0xF01) [(2, 0xFE)]).I.toNat +
    ((withV ((start 0xF21E).setI 0xF01) [(2, 0xFE)]).v 2).toNat ≤ 0xFFF ∧
    LegalPc ((withV ((start 0xF21E).setI 0xF01) [(2, 0xFE)]).pc.toNat + 2) := by decide
theorem witness_bcd : ((start 0xF033).setI 0xFFD).indexed 2 ≤ 0xFFF ∧
    LegalPc (((start 0xF033).setI 0xFFD).pc.toNat + 2) ∧ ((start 0xF033).setI 0xFFE).indexed 2 > 0xFFF := by decide
theorem witness_register_ranges : ((start 0xFF55).setI 0xFF0).indexed (15 : Reg).val ≤ 0xFFF ∧
    LegalPc (((start 0xFF55).setI 0xFF0).pc.toNat + 2) ∧
    ((start 0xFF55).setI 0xFF1).indexed (15 : Reg).val > 0xFFF ∧
    ((start 0xF065).setI 0xFFF).indexed (0 : Reg).val ≤ 0xFFF := by decide
theorem witness_store_then_load :
    (withV ((start 0xF155).setI 0x400) [(0, 7), (1, 9)]).indexed (1 : Reg).val ≤ 0xFFF ∧
    LegalPc ((withV ((start 0xF155).setI 0x400) [(0, 7), (1, 9)]).pc.toNat + 2) ∧
    ∃ t, exec (.storeRegs 1) (withV ((start 0xF155).setI 0x400) [(0, 7), (1, 9)]) = .next t ∧
      LegalPc ((withV t [(0, 0), (1, 0)]).pc.toNat + 2) ∧ Unchanged t (withV t [(0, 0), (1, 0)]) .memory ∧
      Unchanged t (withV t [(0, 0), (1, 0)]) .index :=
  ⟨by decide, by decide, _, rfl, by decide, fun _ => rfl, rfl⟩
theorem witness_stored_code : Running ((start 0xF155).setI 0x202) ∧ AtPc ((start 0xF155).setI 0x202) (.storeRegs 1) ∧
    1 ≤ (1 : Reg).val ∧ ((start 0xF155).setI 0x202).I.toNat = ((start 0xF155).setI 0x202).pc.toNat + 2 ∧
    ((start 0xF155).setI 0x202).indexed (1 : Reg).val ≤ 0xFFF ∧
    LegalPc (((start 0xF155).setI 0x202).pc.toNat + 2) :=
  ⟨by decide, ⟨by decide, rfl⟩, by decide, by decide, by decide, by decide⟩

/-! Sprites: the last byte at the top of memory, no rows at all, coordinates in VF; the first address outside. -/
theorem witness_draw : ((start 0xD121).setI 0xFFF).I.toNat + 1 - 1 ≤ 0xFFF ∧
    (1 ≤ 0 → ((start 0xD120).setI 0xFFF).I.toNat + 0 - 1 ≤ 0xFFF) ∧
    LegalPc (((start 0xD121).setI 0xFFF).pc.toNat + 2) := by decide
theorem witness_draw_beyond : 1 ≤ 2 ∧ ((start 0xD122).setI 0xFFF).I.toNat + 2 - 1 > 0xFFF := by decide
theorem witness_draw_twice : (1 : Reg) ≠ 15 ∧ (2 : Reg) ≠ 15 ∧ (start 0xD121).I.toNat + 1 - 1 ≤ 0xFFF ∧
    LegalPc ((start 0xD121).pc.toNat + 2) ∧ ∃ t, exec (.drw 1 2 1) (start 0xD121) = .next t :=
  ⟨by decide, by decide, by decide, by decide, _, rfl⟩

/-! Transactions. -/
theorem witness_too_large : (List.replicate 3585 (0 : Byte)).length > 3584 := by
  rw [List.length_replicate]
  omega
theorem witness_load : ([0x12, 0x00] : List Byte).length ≤ 3584 ∧ ∃ t, load [0x12, 0x00] State.reset = (t, .ok) :=
  ⟨by decide, _, rfl⟩
theorem witness_transaction : Inv State.reset ∧
    ∃ t, transact (.load [0x12, 0x00]) State.reset = .next (t, .ok) ∧ t.loaded = true :=
  ⟨⟨by decide, by decide, by decide, by decide, by decide, (fun n h => by cases h), (fun e h => by cases h)⟩,
    _, rfl, by decide⟩
theorem witness_step_answers : ∃ t, transact (.step { keys := 0, now := 0, rnd := 0 }) (start 0x12A1) =
    .next (t, .error (.addressOverflow 0x2A1)) := ⟨_, rfl⟩

end Sys2Proof.Tests
end

namespace Sys2Proof.Machine

/-! ### An instruction that raises -/

/-- An instruction that answers `raise` raises in the sense of the claims: `raise` latches the error alone. -/
theorem raises_of_exec_eq_raise {i : Instr} {e : Error} {s : State} (h : exec i s = .next (s.raise e)) :
    Raises i e s :=
  ⟨s.raise e, h, s.raise_err e, raise_frame s e⟩

/-! ### 00EE (41_control_flow.md R141) -/

theorem exec_ret_eq_execRet (s : State) : exec .ret s = execRet s := rfl

/-- With `k + 1` entries in use the top one is entry `k`. -/
theorem State.topOfStack_eq_getElem (s : State) {k : Fin 16} (hsp : s.sp.val = k.val + 1) (h : 0 < s.sp.val) :
    s.topOfStack h = s.stack[k.val] := by
  simp [State.topOfStack, hsp]

theorem exec_ret_of_empty {s : State} (h : s.sp = 0) : exec .ret s = .next (s.raise .stackUnderflow) := by
  rw [exec_ret_eq_execRet, execRet, dif_neg (by simp [h])]

/-- A return with `k + 1` entries in use pops and puts entry `k` to the pc check, legal or not. -/
theorem exec_ret_of_entry {s : State} {k : Fin 16} (hsp : s.sp.val = k.val + 1) :
    exec .ret s = retire s s.pop s.stack[k.val].toNat := by
  have h : 0 < s.sp.val := by omega
  rw [exec_ret_eq_execRet, execRet, dif_pos h, s.topOfStack_eq_getElem hsp h]

theorem pop_setPc_frame (s : State) (a : Word) : UnchangedBut [.pc, .stack] s (s.pop.setPc a) :=
  ((pop_frame s).mono (by simp)).trans ((setPc_frame s.pop a).mono (by simp))

/-- Settles O26, by the depth of the stack and then by the pc check on the top entry. -/
theorem returnPopsOrRaises : Obligations.ReturnPopsOrRaises := by
  unfold Obligations.ReturnPopsOrRaises
  refine fun s => ⟨fun hempty => ?_, fun k hsp hlegal => ?_, fun k hsp htop => ?_⟩
  · exact raises_of_exec_eq_raise (exec_ret_of_empty hempty)
  · have hexec : exec .ret s = .next (s.pop.setPc s.stack[k.val]) := by
      rw [exec_ret_of_entry hsp, retire_legal s s.pop hlegal, BitVec.ofNat_toNat, BitVec.setWidth_eq]
    exact ⟨_, hexec, rfl, by simp [hsp], rfl, pop_setPc_frame s _⟩
  · have hillegal : ¬ LegalPc 0x1000 := by decide
    apply raises_of_exec_eq_raise
    rw [exec_ret_of_entry hsp, htop, retire_illegal s s.pop hillegal]

end Sys2Proof.Machine

namespace Sys2Proof.Machine

/-! ### The flags and the byte arithmetic as numbers (42_load_alu.md R160, R167 to R171) -/

/-- The flag register gets 0x00 or 0x01 (10_state.md R23). -/
theorem flagByte_toNat (f : Bool) : (flagByte f).toNat = f.toNat := by
  cases f <;> rfl

theorem carryOut_toNat (a b : Byte) : (carryOut a b).toNat = if a.toNat + b.toNat > 255 then 1 else 0 :=
  Bool.cond_decide ..

theorem noBorrow_toNat (a b : Byte) : (noBorrow a b).toNat = if a.toNat ≥ b.toNat then 1 else 0 :=
  Bool.cond_decide ..

theorem bitOutRight_toNat (a : Byte) : (bitOutRight a).toNat = a.toNat % 2 := by
  rw [bitOutRight, BitVec.getLsbD, Nat.toNat_testBit, pow_zero, Nat.div_one]

/-- Of a byte's top bit nothing is lost to the reduction modulo 2: a byte is below 256. -/
theorem bitOutLeft_toNat (a : Byte) : (bitOutLeft a).toNat = a.toNat / 128 := by
  rw [bitOutLeft, BitVec.getLsbD, Nat.toNat_testBit]
  omega

/-- A byte difference is the difference of the numbers modulo 256, 256 lent before the subtraction. -/
theorem byte_sub_toNat (a b : Byte) : (a - b).toNat = (a.toNat + 256 - b.toNat) % 256 := by
  rw [BitVec.toNat_sub]
  omega

theorem byte_shiftRight_one_toNat (a : Byte) : (a >>> 1).toNat = a.toNat / 2 := by
  rw [BitVec.toNat_ushiftRight, Nat.shiftRight_eq_div_pow, pow_one]

theorem byte_shiftLeft_one_toNat (a : Byte) : (a <<< 1).toNat = a.toNat * 2 % 256 := by
  rw [BitVec.toNat_shiftLeft, Nat.shiftLeft_eq, pow_one]

/-! ### Instructions that write registers and go on (40_step_cycle.md R128, R129) -/

/-- Where pc + 2 is legal, going on to the next word keeps the tentative state and moves pc there. -/
theorem advance_legal (s t : State) (h : LegalPc (s.pc.toNat + 2)) :
    advance s t = .next (t.setPc (BitVec.ofNat 16 (s.pc.toNat + 2))) :=
  retire_legal s t h

/-- A tentative state that differs by registers alone differs by registers and pc once pc has moved. -/
theorem UnchangedBut.regs_setPc {s t : State} (h : UnchangedBut [.regs] s t) (a : Word) :
    UnchangedBut [.regs, .pc] s (t.setPc a) :=
  (h.mono (by simp)).trans ((setPc_frame t a).mono (by simp))

theorem setResultAndFlag_frame (s : State) (x : Reg) (b : Byte) (f : Bool) :
    UnchangedBut [.regs] s (s.setResultAndFlag x b f) :=
  (setV_frame s x b).trans (setFlag_frame (s.setV x b) f)

/-- An instruction that goes on with one register written completes in the sense of the claims. -/
theorem writesReg_of_exec_eq_advance {i : Instr} {s : State} {x : Reg} {b : Byte} {value : Nat}
    (hpc : LegalPc (s.pc.toNat + 2)) (hexec : exec i s = advance s (s.setV x b)) (hvalue : b.toNat = value) :
    WritesReg i x value s := by
  refine ⟨_, hexec.trans (advance_legal s _ hpc), ?_, fun r hr => ?_, legalPc_toNat hpc,
    (setV_frame s x b).regs_setPc _⟩
  · rw [State.setPc_v, State.setV_v_self, hvalue]
  · rw [State.setPc_v, State.setV_v_other s b hr]

/-- An instruction that goes on with a result and then the flag written completes in the sense of the claims: the flag
is what VF keeps, whether or not VF is the result's register (42_load_alu.md R173). -/
theorem writesRegAndFlag_of_exec_eq_advance {i : Instr} {s : State} {x : Reg} {b : Byte} {f : Bool} {value flag : Nat}
    (hpc : LegalPc (s.pc.toNat + 2)) (hexec : exec i s = advance s (s.setResultAndFlag x b f))
    (hvalue : b.toNat = value) (hflag : f.toNat = flag) : WritesRegAndFlag i x value flag s := by
  refine ⟨_, hexec.trans (advance_legal s _ hpc), ?_, fun hx => ?_, fun r hrx hrF => ?_, legalPc_toNat hpc,
    (setResultAndFlag_frame s x b f).regs_setPc _⟩
  · rw [State.setPc_v, State.setResultAndFlag_v, if_pos rfl, flagByte_toNat, hflag]
  · rw [State.setPc_v, State.setResultAndFlag_v, if_neg hx, if_pos rfl, hvalue]
  · rw [State.setPc_v, State.setResultAndFlag_v, if_neg hrF, if_neg hrx]

/-! ### What the loads, the arithmetic and the shifts execute (42_load_alu.md R161 to R163, R167 to R171) -/

theorem exec_ldByte (x : Reg) (kk : Byte) (s : State) : exec (.ldByte x kk) s = advance s (s.setV x kk) := rfl

theorem exec_addByte (x : Reg) (kk : Byte) (s : State) :
    exec (.addByte x kk) s = advance s (s.setV x (s.v x + kk)) := rfl

theorem exec_ldReg (x y : Reg) (s : State) : exec (.ldReg x y) s = advance s (s.setV x (s.v y)) := rfl

theorem exec_addReg (x y : Reg) (s : State) : exec (.addReg x y) s =
    advance s (s.setResultAndFlag x (s.v x + s.v y) (carryOut (s.v x) (s.v y))) := rfl

theorem exec_subReg (x y : Reg) (s : State) : exec (.subReg x y) s =
    advance s (s.setResultAndFlag x (s.v x - s.v y) (noBorrow (s.v x) (s.v y))) := rfl

theorem exec_subnReg (x y : Reg) (s : State) : exec (.subnReg x y) s =
    advance s (s.setResultAndFlag x (s.v y - s.v x) (noBorrow (s.v y) (s.v x))) := rfl

theorem exec_shr (x y : Reg) (s : State) : exec (.shr x y) s =
    advance s (s.setResultAndFlag x (s.v x >>> 1) (bitOutRight (s.v x))) := rfl

theorem exec_shl (x y : Reg) (s : State) : exec (.shl x y) s =
    advance s (s.setResultAndFlag x (s.v x <<< 1) (bitOutLeft (s.v x))) := rfl

/-- Settles O21, instruction by instruction: each goes on with a result and then a flag, both of the old operands. -/
theorem arithmeticSetsTheFlagLast : Obligations.ArithmeticSetsTheFlagLast := by
  unfold Obligations.ArithmeticSetsTheFlagLast
  refine fun s x y hpc => ⟨?_, ?_, ?_⟩
  · exact writesRegAndFlag_of_exec_eq_advance hpc (exec_addReg x y s) (BitVec.toNat_add _ _) (carryOut_toNat _ _)
  · exact writesRegAndFlag_of_exec_eq_advance hpc (exec_subReg x y s) (byte_sub_toNat _ _) (noBorrow_toNat _ _)
  · exact writesRegAndFlag_of_exec_eq_advance hpc (exec_subnReg x y s) (byte_sub_toNat _ _) (noBorrow_toNat _ _)

/-- Settles O22, shift by shift: each goes on with Vx shifted in place and then the bit shifted out, y unread. -/
theorem shiftsSetTheFlagLast : Obligations.ShiftsSetTheFlagLast := by
  unfold Obligations.ShiftsSetTheFlagLast
  refine fun s x y hpc => ⟨?_, ?_⟩
  · exact writesRegAndFlag_of_exec_eq_advance hpc (exec_shr x y s) (byte_shiftRight_one_toNat _) (bitOutRight_toNat _)
  · exact writesRegAndFlag_of_exec_eq_advance hpc (exec_shl x y s) (byte_shiftLeft_one_toNat _) (bitOutLeft_toNat _)

/-- Settles O19, instruction by instruction: each goes on with Vx written and no flag. -/
theorem loadsAndByteAddWriteVx : Obligations.LoadsAndByteAddWriteVx := by
  unfold Obligations.LoadsAndByteAddWriteVx
  refine fun s x y kk hpc => ⟨?_, ?_, ?_⟩
  · exact writesReg_of_exec_eq_advance hpc (exec_ldByte x kk s) rfl
  · exact writesReg_of_exec_eq_advance hpc (exec_addByte x kk s) (BitVec.toNat_add _ _)
  · exact writesReg_of_exec_eq_advance hpc (exec_ldReg x y s) rfl

end Sys2Proof.Machine

namespace Sys2Proof.Machine

/-! ### 00E0 (43_display.md R190) -/

theorem exec_cls (s : State) : exec .cls s = advance s (s.setFB FrameBuf.clear) := rfl

/-- A tentative state that differs by some parts alone differs by those and pc once pc has moved. -/
theorem UnchangedBut.append_pc_setPc {parts : List Part} {s t : State} (h : UnchangedBut parts s t) (a : Word) :
    UnchangedBut (parts ++ [.pc]) s (t.setPc a) :=
  (h.mono fun _ => List.mem_append_left _).trans ((setPc_frame t a).mono fun _ => List.mem_append_right _)

/-- Settles O46: the instruction goes on with the clear screen, and the write of pc after it keeps that screen. -/
theorem clearScreenClearsEveryCell : Obligations.ClearScreenClearsEveryCell := by
  unfold Obligations.ClearScreenClearsEveryCell
  refine fun s hpc => ⟨_, (exec_cls s).trans (advance_legal s _ hpc), fun x y => ?_, legalPc_toNat hpc,
    (setFB_frame s FrameBuf.clear).append_pc_setPc _⟩
  rw [State.setPc_FB, State.setFB_FB, FrameBuf.cell_clear]

end Sys2Proof.Machine

namespace Sys2Proof.Machine

/-! ### FX15 and FX18 (45_timers.md R213, R214) -/

theorem exec_ldDtVx (x : Reg) (s : State) : exec (.ldDtVx x) s = advance s (s.setDT (s.v x)) := rfl

theorem exec_ldStVx (x : Reg) (s : State) : exec (.ldStVx x) s = advance s (s.setST (s.v x)) := rfl

/-- A STEP whose instruction goes on to a legal pc without raising commits the whole tentative state, which was made from
the decayed one (40_step_cycle.md R130). -/
theorem step_of_exec_eq_advance {i : Instr} {s t : State} (hrun : Running s) (hat : AtPc s i)
    (hpc : LegalPc (s.pc.toNat + 2)) (hexec : exec i s.decay = advance s.decay t) (herr : t.err = none) :
    step s = .next (t.setPc (BitVec.ofNat 16 (s.pc.toNat + 2))).takeInput := by
  rw [step_running hrun hat, hexec, advance_legal s.decay t hpc, commit,
    settle_ok s ((t.setPc_err _).trans herr), State.decay_pc]

/-- Settles O36: each instruction goes on with its timer and reference written; in a STEP it writes them on the decayed
state, which has the registers and the `now` of the state before. -/
theorem timerWritesRestartTheReference : Obligations.TimerWritesRestartTheReference := by
  unfold Obligations.TimerWritesRestartTheReference
  refine fun s x hpc => ⟨?execDT, ?execST, fun hrun hat => ?stepDT, fun hrun hat => ?stepST⟩
  case execDT =>
    exact ⟨_, (exec_ldDtVx x s).trans (advance_legal s _ hpc), rfl, rfl, legalPc_toNat hpc,
      (setDT_frame s (s.v x)).append_pc_setPc _⟩
  case execST =>
    exact ⟨_, (exec_ldStVx x s).trans (advance_legal s _ hpc), rfl, rfl, legalPc_toNat hpc,
      (setST_frame s (s.v x)).append_pc_setPc _⟩
  case stepDT =>
    refine ⟨_, step_of_exec_eq_advance hrun hat hpc (exec_ldDtVx x s.decay) hrun.1, ?_, ?_⟩
    · rw [State.takeInput_DT, State.setPc_DT, State.setDT_DT, State.decay_v]
    · rw [State.takeInput_dtRef, State.setPc_dtRef, State.setDT_dtRef, State.decay_input]
  case stepST =>
    refine ⟨_, step_of_exec_eq_advance hrun hat hpc (exec_ldStVx x s.decay) hrun.1, ?_, ?_⟩
    · rw [State.takeInput_ST, State.setPc_ST, State.setST_ST, State.decay_v]
    · rw [State.takeInput_stRef, State.setPc_stRef, State.setST_stRef, State.decay_input]

end Sys2Proof.Machine

namespace Sys2Proof.Machine

/-! ### Instructions with an address check of their own that go on (20_memory.md R67; 40_step_cycle.md R129) -/

/-- Where the highest address an instruction uses lies above memory, the instruction raises and does nothing else. -/
theorem raises_of_exec_eq_withinMemory {i : Instr} {s : State} {last : Nat} {r : Result}
    (hexec : exec i s = withinMemory s last r) (hout : last > 0xFFF) : Raises i (.addressOverflow last) s :=
  raises_of_exec_eq_raise (hexec.trans (withinMemory_out s r hout))

/-- Where both checks pass, the tentative state is kept and pc moves to the next word. -/
theorem exec_of_withinMemory_advance {i : Instr} {s t : State} {last : Nat}
    (hexec : exec i s = withinMemory s last (advance s t)) (hin : last ≤ 0xFFF) (hpc : LegalPc (s.pc.toNat + 2)) :
    exec i s = .next (t.setPc (BitVec.ofNat 16 (s.pc.toNat + 2))) := by
  rw [hexec, withinMemory_in s _ hin, advance_legal s t hpc]

/-! ### ANNN (46_index_memory.md R220) -/

theorem exec_ldI (nnn : BitVec 12) (s : State) : exec (.ldI nnn) s = advance s (s.setI (addrWord nnn)) := rfl

/-- Zero-extension to the width of `I` loses no value of NNN. -/
theorem addrWord_toNat (nnn : BitVec 12) : (addrWord nnn).toNat = nnn.toNat :=
  BitVec.toNat_setWidth_of_le (by decide)

/-- An instruction that goes on with `I` written completes in the sense of the claims. -/
theorem writesIndex_of_exec_eq_advance {i : Instr} {s : State} {a : Word} {value : Nat}
    (hpc : LegalPc (s.pc.toNat + 2)) (hexec : exec i s = advance s (s.setI a)) (hvalue : a.toNat = value) :
    WritesIndex i value s :=
  ⟨_, hexec.trans (advance_legal s _ hpc), hvalue, legalPc_toNat hpc, (setI_frame s a).append_pc_setPc _⟩

/-- Settles O39: the instruction goes on with `I` written, and NNN fits in `I`. -/
theorem loadIndexTakesTheAddress : Obligations.LoadIndexTakesTheAddress := by
  unfold Obligations.LoadIndexTakesTheAddress
  exact fun s nnn hpc => writesIndex_of_exec_eq_advance hpc (exec_ldI nnn s) (addrWord_toNat nnn)

/-! ### FX33 (46_index_memory.md R223) -/

/-- What FX33 stores: the decimal digits of a byte at `I`, `I` + 1 and `I` + 2, in that order. -/
def State.storeDigits (s : State) (v : Byte) : State :=
  ((s.setByte (s.indexed 0) (hundreds v)).setByte (s.indexed 1) (tens v)).setByte (s.indexed 2) (ones v)

theorem exec_ldBcd (x : Reg) (s : State) :
    exec (.ldBcd x) s = withinMemory s (s.indexed 2) (advance s (s.storeDigits (s.v x))) := rfl

theorem hundreds_toNat (v : Byte) : (hundreds v).toNat = v.toNat / 100 := by
  rw [hundreds, BitVec.toNat_ofNat]
  omega

theorem tens_toNat (v : Byte) : (tens v).toNat = v.toNat / 10 % 10 := by
  rw [tens, BitVec.toNat_ofNat]
  omega

theorem ones_toNat (v : Byte) : (ones v).toNat = v.toNat % 10 := by
  rw [ones, BitVec.toNat_ofNat]
  omega

theorem State.storeDigits_byte (s : State) (v : Byte) (a : Nat) : (s.storeDigits v).byte a =
    if a = s.indexed 2 then ones v else if a = s.indexed 1 then tens v
    else if a = s.indexed 0 then hundreds v else s.byte a := by
  simp only [State.storeDigits, State.setByte_byte]

theorem storeDigits_frame (s : State) (v : Byte) : UnchangedBut [.memory] s (s.storeDigits v) :=
  ((setByte_frame s _ _).trans (setByte_frame _ _ _)).trans (setByte_frame _ _ _)

/-- Settles O41, by the instruction's own check: it raises, or it goes on with the digits at three different
addresses. -/
theorem bcdStoresThreeDigits : Obligations.BcdStoresThreeDigits := by
  unfold Obligations.BcdStoresThreeDigits
  refine fun s x => ⟨raises_of_exec_eq_withinMemory (exec_ldBcd x s), fun hin hpc =>
    ⟨_, exec_of_withinMemory_advance (exec_ldBcd x s) hin hpc, ?hundreds, ?tens, ?ones, fun a ha => ?others,
      legalPc_toNat hpc, (storeDigits_frame s (s.v x)).append_pc_setPc _⟩⟩
  all_goals rw [State.setPc_byte, State.storeDigits_byte]
  case hundreds => simp [indexed_inj, hundreds_toNat]
  case tens => simp [indexed_inj, tens_toNat]
  case ones => simp [ones_toNat]
  case others => rw [if_neg (ha 2 (by decide)), if_neg (ha 1 (by decide)), if_neg (ha 0 (by decide))]

/-! ### FX55 and FX65 (46_index_memory.md R224, R225) -/

theorem exec_storeRegs (x : Reg) (s : State) : exec (.storeRegs x) s =
    withinMemory s (s.indexed x.val) (advance s (storeLoop s (regsThrough x))) := rfl

theorem exec_loadRegs (x : Reg) (s : State) : exec (.loadRegs x) s =
    withinMemory s (s.indexed x.val) (advance s (loadLoop s (regsThrough x))) := rfl

/-- The store loop over V0..Vx puts each of these registers at its own address. -/
theorem storeLoop_regsThrough_stored (s : State) {x r : Reg} (hr : r ≤ x) :
    (storeLoop s (regsThrough x)).byte (s.indexed r.val) = s.v r :=
  storeFold_stored s (regsThrough x) s r ((mem_regsThrough x r).2 hr)

theorem storeLoop_regsThrough_other (s : State) {x : Reg} {a : Nat} (ha : ∀ r : Reg, r ≤ x → a ≠ s.indexed r.val) :
    (storeLoop s (regsThrough x)).byte a = s.byte a :=
  storeFold_other s a (regsThrough x) s fun r hr => ha r ((mem_regsThrough x r).1 hr)

/-- The load loop over V0..Vx gives each of these registers the byte at its own address and keeps the others. -/
theorem loadLoop_regsThrough_v (s : State) (x r : Reg) :
    (loadLoop s (regsThrough x)).v r = if r ≤ x then s.byte (s.indexed r.val) else s.v r := by
  rw [loadLoop, loadFold_v]
  simp only [mem_regsThrough]

/-- Settles O42, by the instruction's own check: it raises, or it goes on with the store loop done. -/
theorem storeRegistersWritesTheirRange : Obligations.StoreRegistersWritesTheirRange := by
  unfold Obligations.StoreRegistersWritesTheirRange
  refine fun s x => ⟨raises_of_exec_eq_withinMemory (exec_storeRegs x s), fun hin hpc =>
    ⟨_, exec_of_withinMemory_advance (exec_storeRegs x s) hin hpc, fun r hr => ?stored, fun a ha => ?others,
      legalPc_toNat hpc, (storeLoop_frame s (regsThrough x)).append_pc_setPc _⟩⟩
  case stored => rw [State.setPc_byte, storeLoop_regsThrough_stored s hr]
  case others => rw [State.setPc_byte, storeLoop_regsThrough_other s ha]

/-- Settles O43, by the instruction's own check: it raises, or it goes on with the load loop done. -/
theorem loadRegistersReadsTheirRange : Obligations.LoadRegistersReadsTheirRange := by
  unfold Obligations.LoadRegistersReadsTheirRange
  refine fun s x => ⟨raises_of_exec_eq_withinMemory (exec_loadRegs x s), fun hin hpc =>
    ⟨_, exec_of_withinMemory_advance (exec_loadRegs x s) hin hpc, fun r hr => ?loaded, fun r hr => ?others,
      legalPc_toNat hpc, (loadLoop_frame s (regsThrough x)).append_pc_setPc _⟩⟩
  case loaded => rw [State.setPc_v, loadLoop_regsThrough_v, if_pos hr]
  case others => rw [State.setPc_v, loadLoop_regsThrough_v, if_neg (Fin.not_le.2 hr)]

end Sys2Proof.Machine

namespace Sys2Proof.Machine

/-! ### LOAD as a transaction (40_step_cycle.md R120, R121; 60_exceptions.md R242) -/

theorem transact_load (program : List Byte) (s : State) : transact (.load program) s = .next (load program s) := rfl

/-- Settles O53: the transaction answers what `load` answers, and `load` refuses a program of more than 3584 bytes. -/
theorem tooLargeProgramChangesNothing : Obligations.TooLargeProgramChangesNothing := by
  unfold Obligations.TooLargeProgramChangesNothing
  intro s program h
  rw [transact_load, load_refused s program h]

end Sys2Proof.Machine

namespace Sys2Proof

/-! ### Words whose fields are known (30_encoding.md R91, R92) -/

theorem wordA_fields {op : Word} {top : BitVec 4} (h : opTop op = top) : wordA top (opNnn op) = op := by
  apply BitVec.eq_of_toNat_eq
  rw [toNat_wordA, ← h, opTop_toNat, opNnn_toNat]
  omega

theorem wordI_fields {op : Word} {top : BitVec 4} {kk : Byte} (h : opTop op = top) (hkk : opKk op = kk) :
    wordI top (opX op) kk = op := by
  apply BitVec.eq_of_toNat_eq
  rw [toNat_wordI, ← h, ← hkk, opTop_toNat, opX_val, opKk_toNat]
  omega

theorem wordR_fields {op : Word} {top n : BitVec 4} (h : opTop op = top) (hn : opN op = n) :
    wordR top (opX op) (opY op) n = op := by
  apply BitVec.eq_of_toNat_eq
  rw [toNat_wordR, ← h, ← hn, opTop_toNat, opX_val, opY_val, opN_toNat]
  omega

/-! ### The decoder's second level (30_encoding.md R94) -/

theorem decodeWord_of_top_8 {op : Word} (h : opTop op = 0x8) : decodeWord op = decodeFamily8 op := by
  rw [decodeWord, h]
  rfl

theorem decodeWord_of_top_E {op : Word} (h : opTop op = 0xE) : decodeWord op = decodeFamilyE op := by
  rw [decodeWord, h]
  rfl

theorem decodeWord_of_top_F {op : Word} (h : opTop op = 0xF) : decodeWord op = decodeFamilyF op := by
  rw [decodeWord, h]
  rfl

theorem decodeWord_encode (i : Instr) (hi : i.WellFormed) : decodeWord (encode i) = .ok i := by
  cases i with
  | cls | ret => rfl
  | jp | call | ldI | jpV0 => simp [encode, decodeWord, opTop_wordA, opNnn_wordA]
  | seByte | sneByte | ldByte | addByte | rnd => simp [encode, decodeWord, opTop_wordI, opX_wordI, opKk_wordI]
  | seReg | sneReg => simp [encode, decodeWord, decodeLowZero, opTop_wordR, opX_wordR, opY_wordR, opN_wordR]
  | drw x y n =>
    have hn : n < 16 := of_decide_eq_true hi
    simp [encode, decodeWord, opTop_wordR, opX_wordR, opY_wordR, opN_wordR, Nat.mod_eq_of_lt hn]
  | ldReg | orReg | andReg | xorReg | addReg | subReg | shr | subnReg | shl =>
    exact (decodeWord_of_top_8 (opTop_wordR ..)).trans (by simp [decodeFamily8, opX_wordR, opY_wordR, opN_wordR])
  | skp | sknp =>
    exact (decodeWord_of_top_E (opTop_wordI ..)).trans (by simp [decodeFamilyE, opX_wordI, opKk_wordI])
  | ldVxDt | ldVxKey | ldDtVx | ldStVx | addI | ldFont | ldBcd | storeRegs | loadRegs =>
    exact (decodeWord_of_top_F (opTop_wordI ..)).trans (by simp [decodeFamilyF, opX_wordI, opKk_wordI])

/-- Settles O1: memory's bytes of a word read back as the word, and the word decodes to its instruction. -/
theorem decodeOfEncodeIsTheInstruction : Obligations.DecodeOfEncodeIsTheInstruction := by
  unfold Obligations.DecodeOfEncodeIsTheInstruction
  intro i rest hi
  rw [encodeBytes, decode_bytesOfWord, decodeWord_encode i hi]

/-! ### What a family's decoder accepts (30_encoding.md R94) -/

/-- `i` is a reading of `op`: well formed, and encoded as that very word. -/
def Reads (op : Word) (i : Instr) : Prop := i.WellFormed ∧ encode i = op

theorem decodeFamily0_reads {op : Word} {i : Instr} (h : decodeFamily0 op = .ok i) : Reads op i := by
  unfold decodeFamily0 at h
  split_ifs at h with h1 h2
  · cases h; exact ⟨rfl, h1.symm⟩
  · cases h; exact ⟨rfl, h2.symm⟩

theorem decodeLowZero_reads {op : Word} {i j : Instr} (h : decodeLowZero op j = .ok i)
    (hj : opN op = 0 → Reads op j) : Reads op i := by
  unfold decodeLowZero at h
  split_ifs at h with hn
  cases h
  exact hj hn

/-- The cases are the nine low nibbles of the family in order, then the rest. -/
theorem decodeFamily8_reads {op : Word} {i : Instr} (htop : opTop op = 0x8) (h : decodeFamily8 op = .ok i) :
    Reads op i := by
  unfold decodeFamily8 at h
  split at h
  case h_10 => cases h
  all_goals
    rename_i hn
    cases h
    exact ⟨rfl, wordR_fields htop (BitVec.eq_of_toNat_eq hn)⟩

theorem decodeFamilyE_reads {op : Word} {i : Instr} (htop : opTop op = 0xE) (h : decodeFamilyE op = .ok i) :
    Reads op i := by
  unfold decodeFamilyE at h
  split_ifs at h with h1 h2
  all_goals
    cases h
    exact ⟨rfl, wordI_fields htop ‹_›⟩

theorem decodeFamilyF_reads {op : Word} {i : Instr} (htop : opTop op = 0xF) (h : decodeFamilyF op = .ok i) :
    Reads op i := by
  unfold decodeFamilyF at h
  split_ifs at h
  all_goals
    cases h
    exact ⟨rfl, wordI_fields htop ‹_›⟩

/-- What the decoder accepts, it reads: the cases are the top nibbles 0x0 to 0xF in order, then none other. -/
theorem decodeWord_reads {op : Word} {i : Instr} (h : decodeWord op = .ok i) : Reads op i := by
  unfold decodeWord at h
  split at h
  case h_1 => exact decodeFamily0_reads h
  case h_6 | h_10 =>
    rename_i htop
    exact decodeLowZero_reads h fun hn => ⟨rfl, wordR_fields (BitVec.eq_of_toNat_eq htop) hn⟩
  case h_9 => exact decodeFamily8_reads (BitVec.eq_of_toNat_eq ‹_›) h
  case h_15 => exact decodeFamilyE_reads (BitVec.eq_of_toNat_eq ‹_›) h
  case h_16 => exact decodeFamilyF_reads (BitVec.eq_of_toNat_eq ‹_›) h
  case h_17 => cases h
  case h_2 | h_3 | h_11 | h_12 =>
    cases h
    exact ⟨rfl, wordA_fields (BitVec.eq_of_toNat_eq ‹_›)⟩
  case h_4 | h_5 | h_7 | h_8 | h_13 =>
    cases h
    exact ⟨rfl, wordI_fields (BitVec.eq_of_toNat_eq ‹_›) rfl⟩
  case h_14 =>
    cases h
    refine ⟨decide_eq_true (opN op).isLt, ?_⟩
    rw [encode, BitVec.ofNat_toNat, BitVec.setWidth_eq, wordR_fields (BitVec.eq_of_toNat_eq ‹_›) rfl]

/-- Settles O2: each branch of the decoder that accepts gives a reading of the word. -/
theorem encodeOfDecodeIsTheWord : Obligations.EncodeOfDecodeIsTheWord := by
  unfold Obligations.EncodeOfDecodeIsTheWord
  exact fun op i h => decodeWord_reads h

end Sys2Proof

namespace Sys2Proof

/-! ### What a row's test says of the word's fields (30_encoding.md R94, R95) -/

theorem opTop_of_accepts {op p : Word} {top : BitVec 4} (hp : p.toNat = top.toNat * 4096)
    (h : (OpRow.mk 0xF000 p).accepts op = true) : opTop op = top := by
  rw [accepts_iff _ _ 0 (by decide) rfl, hp] at h
  apply BitVec.eq_of_toNat_eq
  rw [opTop_toNat]
  omega

theorem opTop_opN_of_accepts {op p : Word} {top n : BitVec 4} (hp : p.toNat = top.toNat * 4096 + n.toNat)
    (h : (OpRow.mk 0xF00F p).accepts op = true) : opTop op = top ∧ opN op = n := by
  rw [accepts_iff _ _ 4 (by decide) rfl, hp] at h
  have := n.isLt
  constructor <;> apply BitVec.eq_of_toNat_eq
  · rw [opTop_toNat]
    omega
  · rw [opN_toNat]
    omega

theorem opTop_opKk_of_accepts {op p : Word} {top : BitVec 4} {kk : Byte} (hp : p.toNat = top.toNat * 4096 + kk.toNat)
    (h : (OpRow.mk 0xF0FF p).accepts op = true) : opTop op = top ∧ opKk op = kk := by
  rw [accepts_iff _ _ 8 (by decide) rfl, hp] at h
  have := kk.isLt
  constructor <;> apply BitVec.eq_of_toNat_eq
  · rw [opTop_toNat]
    omega
  · rw [opKk_toNat]
    omega

theorem eq_of_accepts {op p : Word} (h : (OpRow.mk 0xFFFF p).accepts op = true) : p = op := by
  rw [accepts_iff _ _ 12 (by decide) rfl] at h
  apply BitVec.eq_of_toNat_eq
  rw [← h]
  omega

theorem wordA_of_accepts {op p : Word} {top : BitVec 4} (hp : p.toNat = top.toNat * 4096)
    (h : (OpRow.mk 0xF000 p).accepts op = true) : wordA top (opNnn op) = op :=
  wordA_fields (opTop_of_accepts hp h)

theorem wordI_of_accepts {op p : Word} {top : BitVec 4} (hp : p.toNat = top.toNat * 4096)
    (h : (OpRow.mk 0xF000 p).accepts op = true) : wordI top (opX op) (opKk op) = op :=
  wordI_fields (opTop_of_accepts hp h) rfl

theorem wordF_of_accepts {op p : Word} {top : BitVec 4} {kk : Byte} (hp : p.toNat = top.toNat * 4096 + kk.toNat)
    (h : (OpRow.mk 0xF0FF p).accepts op = true) : wordI top (opX op) kk = op :=
  have ⟨htop, hkk⟩ := opTop_opKk_of_accepts hp h
  wordI_fields htop hkk

theorem wordR_of_accepts {op p : Word} {top n : BitVec 4} (hp : p.toNat = top.toNat * 4096 + n.toNat)
    (h : (OpRow.mk 0xF00F p).accepts op = true) : wordR top (opX op) (opY op) n = op :=
  have ⟨htop, hn⟩ := opTop_opN_of_accepts hp h
  wordR_fields htop hn

/-- The instruction of `i`'s row whose operands are the fields of `op`. -/
def Instr.withFields (op : Word) : Instr → Instr
  | .cls => .cls
  | .ret => .ret
  | .jp _ => .jp (opNnn op)
  | .call _ => .call (opNnn op)
  | .seByte _ _ => .seByte (opX op) (opKk op)
  | .sneByte _ _ => .sneByte (opX op) (opKk op)
  | .seReg _ _ => .seReg (opX op) (opY op)
  | .ldByte _ _ => .ldByte (opX op) (opKk op)
  | .addByte _ _ => .addByte (opX op) (opKk op)
  | .ldReg _ _ => .ldReg (opX op) (opY op)
  | .orReg _ _ => .orReg (opX op) (opY op)
  | .andReg _ _ => .andReg (opX op) (opY op)
  | .xorReg _ _ => .xorReg (opX op) (opY op)
  | .addReg _ _ => .addReg (opX op) (opY op)
  | .subReg _ _ => .subReg (opX op) (opY op)
  | .shr _ _ => .shr (opX op) (opY op)
  | .subnReg _ _ => .subnReg (opX op) (opY op)
  | .shl _ _ => .shl (opX op) (opY op)
  | .sneReg _ _ => .sneReg (opX op) (opY op)
  | .ldI _ => .ldI (opNnn op)
  | .jpV0 _ => .jpV0 (opNnn op)
  | .rnd _ _ => .rnd (opX op) (opKk op)
  | .drw _ _ _ => .drw (opX op) (opY op) (opN op).toNat
  | .skp _ => .skp (opX op)
  | .sknp _ => .sknp (opX op)
  | .ldVxDt _ => .ldVxDt (opX op)
  | .ldVxKey _ => .ldVxKey (opX op)
  | .ldDtVx _ => .ldDtVx (opX op)
  | .ldStVx _ => .ldStVx (opX op)
  | .addI _ => .addI (opX op)
  | .ldFont _ => .ldFont (opX op)
  | .ldBcd _ => .ldBcd (opX op)
  | .storeRegs _ => .storeRegs (opX op)
  | .loadRegs _ => .loadRegs (opX op)

theorem Instr.row_withFields (op : Word) (i : Instr) : (i.withFields op).row = i.row := by
  cases i <;> rfl

theorem Instr.wellFormed_withFields (op : Word) (i : Instr) : (i.withFields op).WellFormed := by
  cases i with
  | drw => exact decide_eq_true (opN op).isLt
  | _ => rfl

/-- A word of an instruction's row is the encoding of the row's instruction with that word's fields. -/
theorem encode_withFields_of_accepts {op : Word} {i : Instr} (h : i.row.accepts op = true) :
    encode (i.withFields op) = op := by
  cases i with
  | cls | ret => exact eq_of_accepts h
  | jp | call | ldI | jpV0 => exact wordA_of_accepts rfl h
  | seByte | sneByte | ldByte | addByte | rnd => exact wordI_of_accepts rfl h
  | seReg | sneReg | ldReg | orReg | andReg | xorReg | addReg | subReg | shr | subnReg | shl =>
    exact wordR_of_accepts rfl h
  | drw x y n =>
    rw [Instr.withFields, encode, BitVec.ofNat_toNat, BitVec.setWidth_eq]
    exact wordR_fields (opTop_of_accepts rfl h) rfl
  | skp | sknp | ldVxDt | ldVxKey | ldDtVx | ldStVx | addI | ldFont | ldBcd | storeRegs | loadRegs =>
    exact wordF_of_accepts rfl h

/-- The word of an instruction is of its row. -/
theorem row_accepts_encode (i : Instr) : i.row.accepts (encode i) = true := by
  cases i with
  | cls => exact Laws.EncodesItsRow.cls
  | ret => exact Laws.EncodesItsRow.ret
  | jp | call | ldI | jpV0 => exact Laws.EncodesItsRow.of_wordA _ _ _ rfl
  | seByte | sneByte | ldByte | addByte | rnd => exact Laws.EncodesItsRow.of_wordI _ _ _ _ rfl
  | seReg | sneReg | ldReg | orReg | andReg | xorReg | addReg | subReg | shr | subnReg | shl =>
    exact Laws.EncodesItsRow.of_wordR _ _ _ _ _ rfl
  | drw => exact Laws.EncodesItsRow.of_wordD _ _ _ _ _ rfl
  | skp | sknp | ldVxDt | ldVxKey | ldDtVx | ldStVx | addI | ldFont | ldBcd | storeRegs | loadRegs =>
    exact Laws.EncodesItsRow.of_wordF _ _ _ _ rfl

/-- Settles O3: a word of a row is what the row's instruction with its fields encodes to, and an encoding is of its
row. -/
theorem rowsDecideDecoding : Obligations.RowsDecideDecoding := by
  unfold Obligations.RowsDecideDecoding
  refine fun op i => ⟨fun h => ⟨i.withFields op, ?_, i.row_withFields op⟩, ?_⟩
  · have hd := decodeWord_encode (i.withFields op) (i.wellFormed_withFields op)
    rwa [encode_withFields_of_accepts h] at hd
  · rintro ⟨j, hd, hrow⟩
    obtain ⟨-, rfl⟩ := decodeWord_reads hd
    rw [← hrow, row_accepts_encode]

/-! ### The words the decoder rejects (30_encoding.md R97) -/

open Machine

theorem decodeFamily0_rejects (op : Word) :
    decodeFamily0 op = .error (.unknownOpcode op) ↔ op.toNat ≠ 0x00E0 ∧ op.toNat ≠ 0x00EE := by
  unfold decodeFamily0
  split_ifs <;> simp_all [← BitVec.toNat_inj]

theorem decodeLowZero_rejects (op : Word) (i : Instr) :
    decodeLowZero op i = .error (.unknownOpcode op) ↔ op.toNat % 0x10 ≠ 0 := by
  unfold decodeLowZero
  split_ifs <;> simp_all [← BitVec.toNat_inj, opN_toNat]

theorem decodeFamily8_rejects (op : Word) : decodeFamily8 op = .error (.unknownOpcode op) ↔
    op.toNat % 0x10 ∈ [0x8, 0x9, 0xA, 0xB, 0xC, 0xD, 0xF] := by
  have hlt : op.toNat % 0x10 < 0x10 := Nat.mod_lt _ (by decide)
  unfold decodeFamily8
  rw [opN_toNat]
  interval_cases op.toNat % 0x10 <;> simp

theorem decodeFamilyE_rejects (op : Word) :
    decodeFamilyE op = .error (.unknownOpcode op) ↔ op.toNat % 0x100 ∉ [0x9E, 0xA1] := by
  unfold decodeFamilyE
  simp only [← BitVec.toNat_inj, opKk_toNat]
  split_ifs <;> simp_all

theorem decodeFamilyF_rejects (op : Word) : decodeFamilyF op = .error (.unknownOpcode op) ↔
    op.toNat % 0x100 ∉ [0x07, 0x0A, 0x15, 0x18, 0x1E, 0x29, 0x33, 0x55, 0x65] := by
  unfold decodeFamilyF
  simp only [← BitVec.toNat_inj, opKk_toNat]
  split_ifs <;> simp_all

theorem unknownWord_iff (op : Word) : UnknownWord op ↔ decodeWord op = .error (.unknownOpcode op) := by
  have htop : op.toNat / 0x1000 < 16 := by
    have := op.isLt
    omega
  unfold UnknownWord decodeWord
  rw [opTop_toNat]
  interval_cases op.toNat / 0x1000 <;>
    simp [decodeFamily0_rejects, decodeLowZero_rejects, decodeFamily8_rejects, decodeFamilyE_rejects,
      decodeFamilyF_rejects]

/-- Settles O4: the listed words are the rejected ones, family by family. -/
theorem unknownWordsAreTheListedOnes : Obligations.UnknownWordsAreTheListedOnes := by
  unfold Obligations.UnknownWordsAreTheListedOnes
  exact fun op => ⟨unknownWord_iff op, fun r h => decodeWord_error h⟩

/-- Settles O5: each word's fields compute. -/
theorem writtenOutWordsDecode : Obligations.WrittenOutWordsDecode := by
  unfold Obligations.WrittenOutWordsDecode
  exact ⟨rfl, rfl, rfl, rfl, rfl, rfl, rfl, rfl⟩

end Sys2Proof

namespace Sys2Proof.Machine

/-! ### Every instruction as its own check, its work and its target (40_step_cycle.md R128, R129)

`exec` reads the same for all 34 instructions once three things are named: the error of the instruction's own check, the
state it tentatively makes, and the pc it goes to. `exec_eq` ties them to the model. -/

/-- The error of a data address, none where it lies in memory (20_memory.md R67). -/
def addressError (last : Nat) : Option Error := if last ≤ 0xFFF then none else some (.addressOverflow last)

/-- The pc of a skip (41_control_flow.md R150). -/
def skipTarget (s : State) (c : Bool) : Nat := s.pc.toNat + if c then 4 else 2

/-- The entry a return goes to; none on an empty stack, which the return's own check rules out. -/
def returnTarget (s : State) : Nat := if h : 0 < s.sp.val then (s.topOfStack h).toNat else 0

/-- A call's push; none on a full stack, which the call's own check rules out. -/
def State.pushIfRoom (s : State) (a : Word) : State := if h : s.sp.val < 16 then s.push a h else s

/-- FX0A takes the lowest key that is down, or waits (44_keypad.md R203). -/
def State.takeKeyOrBlock (s : State) (x : Reg) : State :=
  (lowestKey s.input.keys).elim (s.block x) fun k => s.setV x (keyByte k)

/-- What DXYN draws and whether it collides (43_display.md R191). -/
def State.sprite (s : State) (x y : Reg) (n : Nat) : Drawing :=
  drawSprite s (spriteColumn (s.v x)) (spriteRow (s.v y)) n

/-- The error of the instruction's own check. -/
def ownError : Instr → State → Option Error
  | .ret, s => if 0 < s.sp.val then none else some .stackUnderflow
  | .call _, s => if s.sp.val < 16 then none else some .stackOverflow
  | .drw _ _ n, s => if n = 0 then none else addressError (s.indexed (n - 1))
  | .addI x, s => addressError (s.indexed (s.v x).toNat)
  | .ldBcd _, s => addressError (s.indexed 2)
  | .storeRegs x, s => addressError (s.indexed x.val)
  | .loadRegs x, s => addressError (s.indexed x.val)
  | _, _ => none

/-- The pc the instruction goes to, untruncated. -/
def nextPc : Instr → State → Nat
  | .ret, s => returnTarget s
  | .jp nnn, _ => addrTarget nnn
  | .call nnn, _ => addrTarget nnn
  | .jpV0 nnn, s => addrTarget nnn + (s.v reg0).toNat
  | .seByte x kk, s => skipTarget s (decide (s.v x = kk))
  | .sneByte x kk, s => skipTarget s (decide (s.v x ≠ kk))
  | .seReg x y, s => skipTarget s (decide (s.v x = s.v y))
  | .sneReg x y, s => skipTarget s (decide (s.v x ≠ s.v y))
  | .skp x, s => skipTarget s (pressed s.input.keys (s.v x))
  | .sknp x, s => skipTarget s (!pressed s.input.keys (s.v x))
  | _, s => s.pc.toNat + 2

/-- The state the instruction makes, pc still to be moved. -/
def tentative : Instr → State → State
  | .cls, s => s.setFB FrameBuf.clear
  | .ret, s => s.pop
  | .call _, s => s.pushIfRoom (s.pc + 2)
  | .ldByte x kk, s => s.setV x kk
  | .addByte x kk, s => s.setV x (s.v x + kk)
  | .ldReg x y, s => s.setV x (s.v y)
  | .orReg x y, s => s.setV x (s.v x ||| s.v y)
  | .andReg x y, s => s.setV x (s.v x &&& s.v y)
  | .xorReg x y, s => s.setV x (s.v x ^^^ s.v y)
  | .addReg x y, s => s.setResultAndFlag x (s.v x + s.v y) (carryOut (s.v x) (s.v y))
  | .subReg x y, s => s.setResultAndFlag x (s.v x - s.v y) (noBorrow (s.v x) (s.v y))
  | .shr x _, s => s.setResultAndFlag x (s.v x >>> 1) (bitOutRight (s.v x))
  | .subnReg x y, s => s.setResultAndFlag x (s.v y - s.v x) (noBorrow (s.v y) (s.v x))
  | .shl x _, s => s.setResultAndFlag x (s.v x <<< 1) (bitOutLeft (s.v x))
  | .ldI nnn, s => s.setI (addrWord nnn)
  | .rnd x kk, s => s.setV x (s.input.rnd &&& kk)
  | .drw x y n, s => (s.setFB (s.sprite x y n).1).setFlag (s.sprite x y n).2
  | .ldVxDt x, s => s.setV x s.DT
  | .ldVxKey x, s => s.takeKeyOrBlock x
  | .ldDtVx x, s => s.setDT (s.v x)
  | .ldStVx x, s => s.setST (s.v x)
  | .addI x, s => s.setI (BitVec.ofNat 16 (s.indexed (s.v x).toNat))
  | .ldFont x, s => s.setI (glyphAddr (s.v x))
  | .ldBcd x, s => s.storeDigits (s.v x)
  | .storeRegs x, s => storeLoop s (regsThrough x)
  | .loadRegs x, s => loadLoop s (regsThrough x)
  | _, s => s

theorem State.pushIfRoom_room {s : State} (a : Word) (h : s.sp.val < 16) : s.pushIfRoom a = s.push a h := dif_pos h

theorem State.pushIfRoom_full {s : State} (a : Word) (h : ¬ s.sp.val < 16) : s.pushIfRoom a = s := dif_neg h

theorem addressError_eq_none {last : Nat} : addressError last = none ↔ last ≤ 0xFFF := by
  unfold addressError
  split_ifs <;> simp_all

theorem addressError_eq_some {last : Nat} {e : Error} :
    addressError last = some e ↔ 0xFFF < last ∧ e = .addressOverflow last := by
  unfold addressError
  split_ifs <;> grind

theorem withinMemory_eq_elim (s : State) (last : Nat) (r : Result) :
    withinMemory s last r = (addressError last).elim r fun e => .next (s.raise e) := by
  unfold withinMemory addressError memTop
  split_ifs <;> rfl

/-- What every instruction does: raise its own check's error, or put its work to the pc check. -/
theorem exec_eq (i : Instr) (s : State) : exec i s =
    (ownError i s).elim (retire s (tentative i s) (nextPc i s)) fun e => .next (s.raise e) := by
  cases i with
  | ret =>
    by_cases h : 0 < s.sp.val <;> simp [exec, execRet, ownError, tentative, nextPc, returnTarget, h]
  | call nnn =>
    by_cases h : s.sp.val < 16 <;> simp [exec, execCall, ownError, tentative, nextPc, State.pushIfRoom, h]
  | ldVxKey x =>
    change execLdVxKey x s = retire s (s.takeKeyOrBlock x) (s.pc.toNat + 2)
    unfold execLdVxKey State.takeKeyOrBlock
    cases lowestKey s.input.keys <;> rfl
  | drw x y n =>
    change execDrw x y n s = _
    by_cases hn : n = 0
    · simp only [execDrw, ownError, if_pos hn]
      rfl
    · simp only [execDrw, ownError, if_neg hn, withinMemory_eq_elim]
      rfl
  | addI | ldBcd | storeRegs | loadRegs => exact withinMemory_eq_elim ..
  | _ => rfl

/-- The error an instruction raises: its own check's, and after that the pc check's (60_exceptions.md R249). -/
def execError (i : Instr) (s : State) : Option Error :=
  (ownError i s).or (if LegalPc (nextPc i s) then none else some (.addressOverflow (nextPc i s)))

theorem execError_eq_none {i : Instr} {s : State} :
    execError i s = none ↔ ownError i s = none ∧ LegalPc (nextPc i s) := by
  rw [execError, Option.or_eq_none_iff]
  refine and_congr_right fun _ => ?_
  split_ifs with h <;> simpa using h

theorem execError_eq_some {i : Instr} {s : State} {e : Error} : execError i s = some e ↔
    ownError i s = some e ∨ ownError i s = none ∧ ¬ LegalPc (nextPc i s) ∧ e = .addressOverflow (nextPc i s) := by
  unfold execError
  rw [Option.or_eq_some_iff]
  split_ifs with h <;> simp [h, eq_comm]

theorem exec_of_error {i : Instr} {s : State} {e : Error} (h : execError i s = some e) :
    exec i s = .next (s.raise e) := by
  rcases execError_eq_some.1 h with hown | ⟨hown, hpc, rfl⟩
  · rw [exec_eq, hown, Option.elim_some]
  · rw [exec_eq, hown, Option.elim_none, retire_illegal _ _ hpc]

/-- The state an instruction leaves where nothing raises. -/
def completed (i : Instr) (s : State) : State := (tentative i s).setPc (BitVec.ofNat 16 (nextPc i s))

theorem exec_of_no_error {i : Instr} {s : State} (h : execError i s = none) : exec i s = .next (completed i s) := by
  obtain ⟨hown, hpc⟩ := execError_eq_none.1 h
  rw [exec_eq, hown, Option.elim_none, retire_legal _ _ hpc, completed]

/-- Everything an instruction can do. -/
theorem exec_cases {i : Instr} {s u : State} (h : exec i s = .next u) :
    (∃ e, execError i s = some e ∧ u = s.raise e) ∨ (execError i s = none ∧ u = completed i s) := by
  cases he : execError i s with
  | some e =>
    rw [exec_of_error he] at h
    exact .inl ⟨e, rfl, (Host.Outcome.next.inj h).symm⟩
  | none =>
    rw [exec_of_no_error he] at h
    exact .inr ⟨rfl, (Host.Outcome.next.inj h).symm⟩

/-! ### What the work of an instruction changes (10_state.md R44) -/

/-- The parts an instruction may change, the rows of the access matrix. -/
def writtenParts : Instr → List Part
  | .cls => [.screen]
  | .ret => [.stack]
  | .call _ => [.stack]
  | .ldI _ => [.index]
  | .addI _ => [.index]
  | .ldFont _ => [.index]
  | .drw _ _ _ => [.screen, .regs]
  | .ldVxKey _ => [.regs, .wait]
  | .ldDtVx _ => [.delay]
  | .ldStVx _ => [.sound]
  | .ldBcd _ => [.memory]
  | .storeRegs _ => [.memory]
  | .jp _ => []
  | .jpV0 _ => []
  | .seByte _ _ => []
  | .sneByte _ _ => []
  | .seReg _ _ => []
  | .sneReg _ _ => []
  | .skp _ => []
  | .sknp _ => []
  | _ => [.regs]

theorem pushIfRoom_frame (s : State) (a : Word) : UnchangedBut [.stack] s (s.pushIfRoom a) := by
  by_cases h : s.sp.val < 16
  · rw [State.pushIfRoom_room a h]
    exact push_frame s a h
  · rw [State.pushIfRoom_full a h]
    exact UnchangedBut.refl _ s

theorem takeKeyOrBlock_frame (s : State) (x : Reg) : UnchangedBut [.regs, .wait] s (s.takeKeyOrBlock x) := by
  unfold State.takeKeyOrBlock
  cases lowestKey s.input.keys with
  | none => exact (block_frame s x).mono (by simp)
  | some k => exact (setV_frame s x _).mono (by simp)

theorem tentative_frame (i : Instr) (s : State) : UnchangedBut (writtenParts i) s (tentative i s) := by
  cases i with
  | cls => exact setFB_frame _ _
  | ret => exact pop_frame s
  | call => exact pushIfRoom_frame _ _
  | ldI | addI | ldFont => exact setI_frame _ _
  | drw =>
    exact ((setFB_frame _ _).mono (by simp [writtenParts])).trans
      ((setFlag_frame _ _).mono (by simp [writtenParts]))
  | ldVxKey => exact takeKeyOrBlock_frame _ _
  | ldDtVx => exact setDT_frame _ _
  | ldStVx => exact setST_frame _ _
  | ldBcd => exact storeDigits_frame _ _
  | storeRegs => exact storeLoop_frame _ _
  | loadRegs => exact loadLoop_frame _ _
  | jp | jpV0 | seByte | sneByte | seReg | sneReg | skp | sknp => exact UnchangedBut.refl _ _
  | addReg | subReg | shr | subnReg | shl => exact setResultAndFlag_frame _ _ _ _
  | ldByte | addByte | ldReg | orReg | andReg | xorReg | rnd | ldVxDt => exact setV_frame _ _ _

theorem completed_frame (i : Instr) (s : State) : UnchangedBut (writtenParts i ++ [.pc]) s (completed i s) :=
  (tentative_frame i s).append_pc_setPc _

theorem completed_unchanged {i : Instr} (s : State) {p : Part} (hp : p ∉ writtenParts i) (hpc : p ≠ .pc) :
    Unchanged s (completed i s) p :=
  completed_frame i s p (by simp [hp, hpc])

/-- A part that is no instruction's own to write, pc and the latch aside, reads as before whatever the instruction
answers. -/
theorem exec_unchanged {i : Instr} {s t : State} {p : Part} (h : exec i s = .next t) (hp : p ∉ writtenParts i)
    (hpc : p ≠ .pc) (herr : p ≠ .error) : Unchanged s t p := by
  rcases exec_cases h with ⟨e, -, rfl⟩ | ⟨-, rfl⟩
  · exact raise_frame s e p (by simpa using herr)
  · exact completed_unchanged s hp hpc

theorem screen_mem_writtenParts {i : Instr} :
    .screen ∈ writtenParts i → ¬ (i ≠ .cls ∧ ∀ x y n, i ≠ .drw x y n) := by
  cases i <;> simp [writtenParts]

theorem memory_mem_writtenParts {i : Instr} :
    .memory ∈ writtenParts i → ¬ ∀ x, i ≠ .ldBcd x ∧ i ≠ .storeRegs x := by
  cases i <;> simp [writtenParts]

theorem stack_mem_writtenParts {i : Instr} : .stack ∈ writtenParts i → ¬ (i ≠ .ret ∧ ∀ a, i ≠ .call a) := by
  cases i <;> simp [writtenParts]

theorem index_mem_writtenParts {i : Instr} :
    .index ∈ writtenParts i → ¬ ((∀ a, i ≠ .ldI a) ∧ ∀ x, i ≠ .addI x ∧ i ≠ .ldFont x) := by
  cases i <;> simp [writtenParts]

theorem delay_mem_writtenParts {i : Instr} : .delay ∈ writtenParts i → ¬ ∀ x, i ≠ .ldDtVx x := by
  cases i <;> simp [writtenParts]

theorem sound_mem_writtenParts {i : Instr} : .sound ∈ writtenParts i → ¬ ∀ x, i ≠ .ldStVx x := by
  cases i <;> simp [writtenParts]

theorem wait_mem_writtenParts {i : Instr} : .wait ∈ writtenParts i → ¬ ∀ x, i ≠ .ldVxKey x := by
  cases i <;> simp [writtenParts]

theorem loaded_notMem_writtenParts (i : Instr) : .loaded ∉ writtenParts i := by
  cases i <;> simp [writtenParts]

theorem error_notMem_writtenParts (i : Instr) : .error ∉ writtenParts i := by
  cases i <;> simp [writtenParts]

theorem parameters_notMem_writtenParts (i : Instr) : .parameters ∉ writtenParts i := by
  cases i <;> simp [writtenParts]

theorem inputs_notMem_writtenParts (i : Instr) : .inputs ∉ writtenParts i := by
  cases i <;> simp [writtenParts]

/-- Settles O17: an instruction changes a part only if its row of the access matrix names the part. -/
theorem partsAreWrittenOnlyByTheirInstructions : Obligations.PartsAreWrittenOnlyByTheirInstructions := by
  unfold Obligations.PartsAreWrittenOnlyByTheirInstructions
  intro i s t h
  have unchanged {p : Part} (hp : p ∉ writtenParts i) (hpc : p ≠ .pc := by decide) (herr : p ≠ .error := by decide) :
      Unchanged s t p := exec_unchanged h hp hpc herr
  exact ⟨fun hi => unchanged fun hp => screen_mem_writtenParts hp hi,
    fun hi => unchanged fun hp => memory_mem_writtenParts hp hi,
    fun hi => unchanged fun hp => stack_mem_writtenParts hp hi,
    fun hi => unchanged fun hp => index_mem_writtenParts hp hi,
    fun hi => unchanged fun hp => delay_mem_writtenParts hp hi,
    fun hi => unchanged fun hp => sound_mem_writtenParts hp hi,
    fun hi => unchanged fun hp => wait_mem_writtenParts hp hi,
    unchanged (loaded_notMem_writtenParts i), unchanged (parameters_notMem_writtenParts i),
    unchanged (inputs_notMem_writtenParts i)⟩

/-! ### Which registers the work of an instruction changes (10_state.md R24, R44) -/

/-- A part an update leaves alone, read off its frame: the registers. -/
theorem UnchangedBut.v {parts : List Part} {s t : State} (h : UnchangedBut parts s t) (hr : .regs ∉ parts) (r : Reg) :
    t.v r = s.v r := h .regs hr r

theorem takeKeyOrBlock_v_other (s : State) {x r : Reg} (hr : r ≠ x) : (s.takeKeyOrBlock x).v r = s.v r := by
  unfold State.takeKeyOrBlock
  cases lowestKey s.input.keys with
  | none => exact s.block_v x r
  | some k => exact s.setV_v_other _ hr

theorem setResultAndFlag_v_other (s : State) {x r : Reg} (b : Byte) (f : Bool) (hr : ¬ (r = x ∨ r = 15)) :
    (s.setResultAndFlag x b f).v r = s.v r := by
  rw [State.setResultAndFlag_v, if_neg (hr <| .inr ·), if_neg (hr <| .inl ·)]

theorem tentative_v_of_not_mayWrite {i : Instr} (s : State) {r : Reg} (hr : ¬ mayWrite i r) :
    (tentative i s).v r = s.v r := by
  cases i with
  | addReg | subReg | shr | subnReg | shl => exact setResultAndFlag_v_other s _ _ hr
  | ldByte | addByte | ldReg | orReg | andReg | xorReg | rnd | ldVxDt => exact s.setV_v_other _ hr
  | drw x y n => exact (State.setFlag_v _ r _).trans (if_neg hr)
  | ldVxKey => exact takeKeyOrBlock_v_other s hr
  | loadRegs x => exact (loadLoop_regsThrough_v s x r).trans (if_neg hr)
  | _ => exact (tentative_frame _ s).v (by simp [writtenParts]) r

/-- Settles O18: raising writes no register, and the work of an instruction writes those it may. -/
theorem registersAreWrittenOnlyAsNamed : Obligations.RegistersAreWrittenOnlyAsNamed := by
  unfold Obligations.RegistersAreWrittenOnlyAsNamed
  intro i s t r h hr
  rcases exec_cases h with ⟨e, -, rfl⟩ | ⟨-, rfl⟩
  · exact s.raise_v e r
  · exact tentative_v_of_not_mayWrite s hr

end Sys2Proof.Machine

namespace Sys2Proof.Machine

/-! ### What a STEP answers, branch by branch (40_step_cycle.md R123) -/

theorem step_latched {s : State} {e : Error} (h : s.err = some e) : step s = .next s.takeInput := by
  rw [step, stepPhases, h]

theorem step_empty {s : State} (herr : s.err = none) (hl : s.loaded = false) :
    step s = .next (s.raise .noProgramLoaded).takeInput := by
  simp [step, stepPhases, herr, hl]

theorem step_blocked {s : State} (herr : s.err = none) (hl : s.loaded = true) (hb : s.blocked = true) :
    step s = .next s.pollKey.takeInput := by
  simp [step, stepPhases, herr, hl, hb]

theorem step_unknown {s : State} {op : Word} {r : Reject} (hrun : Running s) (hf : s.fetch = some op)
    (hd : decodeWord op = .error r) : step s = .next (s.raise (.unknownOpcode op)).takeInput := by
  obtain ⟨herr, hl, hb⟩ := hrun
  simp [step, stepPhases, cycle, herr, hl, hb, hf, hd]

theorem completed_err (i : Instr) (s : State) : (completed i s).err = s.err :=
  completed_unchanged s (error_notMem_writtenParts i) (by decide)

theorem completed_loaded (i : Instr) (s : State) : (completed i s).loaded = s.loaded :=
  completed_unchanged s (loaded_notMem_writtenParts i) (by decide)

theorem step_of_error {s : State} {i : Instr} {e : Error} (hrun : Running s) (hat : AtPc s i)
    (h : execError i s.decay = some e) : step s = .next (s.raise e).takeInput := by
  rw [step_running hrun hat, exec_of_error h, commit, settle_raised s (s.decay.raise_err e)]

theorem step_of_no_error {s : State} {i : Instr} (hrun : Running s) (hat : AtPc s i)
    (h : execError i s.decay = none) : step s = .next (completed i s.decay).takeInput := by
  rw [step_running hrun hat, exec_of_no_error h, commit, settle_ok s ((completed_err i s.decay).trans hrun.1)]

/-- The errors a STEP of a machine without one can raise (60_exceptions.md R243, R244; 40_step_cycle.md R129). -/
inductive StepError (s : State) : Error → Prop where
  | empty (hl : s.loaded = false) : StepError s .noProgramLoaded
  | unknown {op : Word} (hrun : Running s) (hf : s.fetch = some op)
      (hd : decodeWord op = .error (.unknownOpcode op)) : StepError s (.unknownOpcode op)
  | instr {i : Instr} {e : Error} (hrun : Running s) (hat : AtPc s i) (h : execError i s.decay = some e) : StepError s e

/-- Everything a STEP can do: replay, raise, look at the keys, or complete an instruction. -/
theorem step_inversion {s u : State} (h : step s = .next u) :
    (∃ e, s.err = some e ∧ u = s.takeInput) ∨
    (∃ e, s.err = none ∧ StepError s e ∧ u = (s.raise e).takeInput) ∨
    (s.err = none ∧ s.loaded = true ∧ s.blocked = true ∧ u = s.pollKey.takeInput) ∨
    (∃ i, Running s ∧ AtPc s i ∧ execError i s.decay = none ∧ u = (completed i s.decay).takeInput) := by
  rcases step_cases h with hlatched | ⟨herr, hl, rfl⟩ | hblocked | ⟨op, hrun, hf, hd, rfl⟩ | ⟨i, -, hrun, hat, -, -⟩
  · exact .inl hlatched
  · exact .inr (.inl ⟨_, herr, .empty hl, rfl⟩)
  · exact .inr (.inr (.inl hblocked))
  · exact .inr (.inl ⟨_, hrun.1, .unknown hrun hf hd, rfl⟩)
  · cases he : execError i s.decay with
    | some e =>
      rw [step_of_error hrun hat he] at h
      exact .inr (.inl ⟨e, hrun.1, .instr hrun hat he, (Host.Outcome.next.inj h).symm⟩)
    | none =>
      rw [step_of_no_error hrun hat he] at h
      exact .inr (.inr (.inr ⟨i, hrun, hat, he, (Host.Outcome.next.inj h).symm⟩))

theorem step_unfetched {s : State} (hrun : Running s) (hf : s.fetch = none) :
    step s = .fault (.fetchAboveMemory s.pc) := by
  obtain ⟨herr, hl, hb⟩ := hrun
  simp [step, stepPhases, cycle, herr, hl, hb, hf]

/-- The branches of a STEP, one of which every state takes. -/
inductive StepBranch (s : State) : Prop where
  | latched {e : Error} (h : s.err = some e)
  | empty (herr : s.err = none) (hl : s.loaded = false)
  | blocked (herr : s.err = none) (hl : s.loaded = true) (hb : s.blocked = true)
  | unfetched (hrun : Running s) (hf : s.fetch = none)
  | unknown {op : Word} {r : Reject} (hrun : Running s) (hf : s.fetch = some op) (hd : decodeWord op = .error r)
  | raises {i : Instr} {e : Error} (hrun : Running s) (hat : AtPc s i) (he : execError i s.decay = some e)
  | completes {i : Instr} (hrun : Running s) (hat : AtPc s i) (he : execError i s.decay = none)

theorem stepBranch (s : State) : StepBranch s := by
  cases herr : s.err with
  | some e => exact .latched herr
  | none =>
    cases hl : s.loaded with
    | false => exact .empty herr hl
    | true =>
      cases hb : s.blocked with
      | true => exact .blocked herr hl hb
      | false =>
        have hrun : Running s := ⟨herr, hl, hb⟩
        cases hf : s.fetch with
        | none => exact .unfetched hrun hf
        | some op =>
          cases hd : decodeWord op with
          | error r => exact .unknown hrun hf hd
          | ok i =>
            obtain ⟨hpc, rfl⟩ := fetch_some.1 hf
            cases he : execError i s.decay with
            | some e => exact .raises hrun ⟨hpc, hd⟩ he
            | none => exact .completes hrun ⟨hpc, hd⟩ he

/-- A STEP answers a next state, or it is to fetch a word that is not in memory. -/
theorem step_answers_or_unfetched (s : State) : (∃ t, step s = .next t) ∨ Running s ∧ s.fetch = none := by
  cases stepBranch s with
  | latched h => exact .inl ⟨_, step_latched h⟩
  | empty herr hl => exact .inl ⟨_, step_empty herr hl⟩
  | blocked herr hl hb => exact .inl ⟨_, step_blocked herr hl hb⟩
  | unfetched hrun hf => exact .inr ⟨hrun, hf⟩
  | unknown hrun hf hd => exact .inl ⟨_, step_unknown hrun hf hd⟩
  | raises hrun hat he => exact .inl ⟨_, step_of_error hrun hat he⟩
  | completes hrun hat he => exact .inl ⟨_, step_of_no_error hrun hat he⟩

/-- A STEP whose word lies in memory answers a next state. -/
theorem step_answers {s : State} (hpc : s.pc.toNat + 1 ≤ 0xFFF) : ∃ t, step s = .next t := by
  rcases step_answers_or_unfetched s with h | ⟨-, hf⟩
  · exact h
  · rw [fetch_some.2 ⟨hpc, rfl⟩] at hf
    cases hf

/-! ### The invariant over the updates around an instruction

None of these updates touches what the invariant speaks of, the latch aside. -/

theorem Inv.takeInput {s : State} (h : Inv s) : Inv s.takeInput :=
  ⟨h.mem_canonical, h.index_in_memory, h.pc_legal, h.stack_entries, h.blocked_loaded, h.err_of_step, h.err_info⟩

theorem Inv.decay {s : State} (h : Inv s) : Inv s.decay :=
  ⟨h.mem_canonical, h.index_in_memory, h.pc_legal, h.stack_entries, h.blocked_loaded, h.err_of_step, h.err_info⟩

theorem Inv.setV {s : State} (h : Inv s) (x : Reg) (b : Byte) : Inv (s.setV x b) :=
  ⟨h.mem_canonical, h.index_in_memory, h.pc_legal, h.stack_entries, h.blocked_loaded, h.err_of_step, h.err_info⟩

theorem Inv.withHost {s : State} (h : Inv s) (host : HostSide) : Inv { s with host := host } :=
  ⟨h.mem_canonical, h.index_in_memory, h.pc_legal, h.stack_entries, h.blocked_loaded, h.err_of_step, h.err_info⟩

theorem Inv.unblock {s : State} (h : Inv s) : Inv s.unblock :=
  ⟨h.mem_canonical, h.index_in_memory, h.pc_legal, h.stack_entries, (fun hb => by cases hb), h.err_of_step, h.err_info⟩

theorem Inv.pollKey {s : State} (h : Inv s) : Inv s.pollKey := by
  unfold State.pollKey
  split
  · exact (h.setV _ _).unblock
  · exact h

theorem pollKey_frame (s : State) : UnchangedBut [.regs, .wait] s s.pollKey := by
  unfold State.pollKey
  split
  · exact ((setV_frame s _ _).mono (by simp)).trans ((unblock_frame _).mono (by simp))
  · exact UnchangedBut.refl _ s

theorem pollKey_err (s : State) : s.pollKey.err = s.err := pollKey_frame s .error (by decide)

theorem Inv.raise {s : State} (h : Inv s) {e : Error} (hload : ∀ n, e ≠ .programTooLarge n) (hinfo : e.info < 65536) :
    Inv (s.raise e) :=
  ⟨h.mem_canonical, h.index_in_memory, h.pc_legal, h.stack_entries, h.blocked_loaded,
    fun n hn => hload n (Option.some.inj hn), fun _ he => Option.some.inj he ▸ hinfo⟩

/-! ### The invariant over the work of an instruction -/

theorem setByte_canonical {s : State} {a : Nat} (b : Byte) (h : Memory.wf s.config s.mem = true) (ha : a ≤ memTop) :
    Memory.wf (s.setByte a b).config (s.setByte a b).mem = true :=
  Memory.wf_write s.config s.mem a b h ha

theorem storeDigits_canonical {s : State} (v : Byte) (h : Memory.wf s.config s.mem = true)
    (hin : s.indexed 2 ≤ memTop) : Memory.wf (s.storeDigits v).config (s.storeDigits v).mem = true := by
  have h0 : s.indexed 0 ≤ memTop := by unfold State.indexed at *; omega
  have h1 : s.indexed 1 ≤ memTop := by unfold State.indexed at *; omega
  exact setByte_canonical _ (setByte_canonical _ (setByte_canonical _ h h0) h1) hin

/-- The store loop within memory keeps the canonical form, from any state under way. -/
theorem storeFold_canonical (s : State) : ∀ (rs : List Reg) (t : State), Memory.wf t.config t.mem = true →
    (∀ r ∈ rs, s.indexed r.val ≤ memTop) →
    Memory.wf (rs.foldl (fun t i => t.setByte (s.indexed i.val) (s.v i)) t).config
      (rs.foldl (fun t i => t.setByte (s.indexed i.val) (s.v i)) t).mem = true
  | [], _, h, _ => h
  | i :: rs, t, h, hin => by
    rw [List.foldl_cons]
    exact storeFold_canonical s rs _ (setByte_canonical _ h (hin i (by simp))) fun r hr => hin r (by simp [hr])

theorem storeLoop_canonical {s : State} {x : Reg} (h : Memory.wf s.config s.mem = true)
    (hin : s.indexed x.val ≤ memTop) :
    Memory.wf (storeLoop s (regsThrough x)).config (storeLoop s (regsThrough x)).mem = true := by
  refine storeFold_canonical s (regsThrough x) s h fun r hr => ?_
  have hrx : r.val ≤ x.val := (mem_regsThrough x r).1 hr
  unfold State.indexed at *
  omega

/-- The load loop writes registers only, from any state under way. -/
theorem loadFold_eq_with_V (s : State) : ∀ (rs : List Reg) (t : State),
    ∃ V, rs.foldl (fun t i => t.setV i (s.byte (s.indexed i.val))) t = { t with V := V }
  | [], t => ⟨t.V, rfl⟩
  | i :: rs, t => by
    obtain ⟨V, hV⟩ := loadFold_eq_with_V s rs (t.setV i (s.byte (s.indexed i.val)))
    exact ⟨V, hV⟩

theorem loadLoop_canonical {s : State} (rs : List Reg) (h : Memory.wf s.config s.mem = true) :
    Memory.wf (loadLoop s rs).config (loadLoop s rs).mem = true := by
  obtain ⟨V, hV⟩ := loadFold_eq_with_V s rs s
  rw [loadLoop, hV]
  exact h

theorem takeKeyOrBlock_canonical {s : State} (x : Reg) (h : Memory.wf s.config s.mem = true) :
    Memory.wf (s.takeKeyOrBlock x).config (s.takeKeyOrBlock x).mem = true := by
  unfold State.takeKeyOrBlock
  cases lowestKey s.input.keys <;> exact h

theorem pushIfRoom_canonical {s : State} (a : Word) (h : Memory.wf s.config s.mem = true) :
    Memory.wf (s.pushIfRoom a).config (s.pushIfRoom a).mem = true := by
  by_cases hroom : s.sp.val < 16
  · rwa [State.pushIfRoom_room a hroom]
  · rwa [State.pushIfRoom_full a hroom]

theorem tentative_canonical {i : Instr} {s : State} (h : Memory.wf s.config s.mem = true) (hown : ownError i s = none) :
    Memory.wf (tentative i s).config (tentative i s).mem = true := by
  cases i with
  | ldBcd x => exact storeDigits_canonical _ h (addressError_eq_none.1 hown)
  | storeRegs x => exact storeLoop_canonical h (addressError_eq_none.1 hown)
  | loadRegs x => exact loadLoop_canonical _ h
  | ldVxKey x => exact takeKeyOrBlock_canonical x h
  | call nnn => exact pushIfRoom_canonical _ h
  | _ => exact h

theorem glyphAddr_toNat (v : Byte) : (glyphAddr v).toNat = v.toNat * 5 := by
  have := v.isLt
  rw [glyphAddr, BitVec.toNat_ofNat]
  omega

theorem indexed_word_toNat {s : State} {k : Nat} (h : s.indexed k ≤ 0xFFF) :
    (BitVec.ofNat 16 (s.indexed k)).toNat = s.indexed k := by
  rw [BitVec.toNat_ofNat]
  omega

theorem tentative_index {i : Instr} {s : State} (h : s.I.toNat ≤ 0xFFF) (hown : ownError i s = none) :
    (tentative i s).I.toNat ≤ 0xFFF := by
  have hframe := tentative_frame i s .index
  cases i with
  | ldI nnn =>
    rw [tentative, State.setI_I, addrWord_toNat]
    omega
  | addI x =>
    have hin := addressError_eq_none.1 hown
    rwa [tentative, State.setI_I, indexed_word_toNat hin]
  | ldFont x =>
    have := (s.v x).isLt
    rw [tentative, State.setI_I, glyphAddr_toNat]
    omega
  | _ =>
    have hI : _ = s.I := hframe (by simp [writtenParts])
    rwa [hI]

/-- The stack entries in use are return addresses (10_state.md R32). -/
def ReturnAddresses (s : State) : Prop := ∀ k : Fin 16, k.val < s.sp.val →
  s.stack[k.val].toNat % 2 = 0 ∧ 0x202 ≤ s.stack[k.val].toNat ∧ s.stack[k.val].toNat ≤ 0x1000

theorem pop_returnAddresses {s : State} (h : ReturnAddresses s) : ReturnAddresses s.pop := fun k hk =>
  h k (Nat.lt_of_lt_of_le hk (Nat.sub_le _ _))

/-- The return address of a call: nothing wraps. -/
theorem pc_add_two_toNat {s : State} (hpc : s.pc.toNat ≤ 0xFFE) : (s.pc + 2).toNat = s.pc.toNat + 2 := by
  rw [BitVec.toNat_add]
  simp only [BitVec.reduceToNat]
  omega

theorem pushIfRoom_returnAddresses {s : State} (h : ReturnAddresses s) (hpc : LegalPc s.pc.toNat) :
    ReturnAddresses (s.pushIfRoom (s.pc + 2)) := by
  by_cases hroom : s.sp.val < 16
  · rw [State.pushIfRoom_room _ hroom]
    intro k hk
    rw [State.push_sp_val] at hk
    simp only [State.push_stack, Vector.getElem_set]
    split_ifs with htop
    · rw [pc_add_two_toNat hpc.2.2]
      omega
    · exact h k (by omega)
  · rwa [State.pushIfRoom_full _ hroom]

theorem tentative_returnAddresses {i : Instr} {s : State} (h : ReturnAddresses s) (hpc : LegalPc s.pc.toNat) :
    ReturnAddresses (tentative i s) := by
  have hframe := tentative_frame i s .stack
  cases i with
  | ret => exact pop_returnAddresses h
  | call nnn => exact pushIfRoom_returnAddresses h hpc
  | _ =>
    obtain ⟨hstack, hsp⟩ := hframe (by simp [writtenParts])
    unfold ReturnAddresses
    rwa [hstack, hsp]

theorem completed_pc_toNat {i : Instr} {s : State} (h : execError i s = none) :
    (completed i s).pc.toNat = nextPc i s :=
  legalPc_toNat (execError_eq_none.1 h).2

/-- An instruction that completes in a loaded machine keeps the invariant. -/
theorem Inv.completed {i : Instr} {s : State} (h : Inv s) (hl : s.loaded = true) (he : execError i s = none) :
    Inv (completed i s) where
  mem_canonical := tentative_canonical h.mem_canonical (execError_eq_none.1 he).1
  index_in_memory := tentative_index h.index_in_memory (execError_eq_none.1 he).1
  pc_legal := by
    rw [completed_pc_toNat he]
    exact (execError_eq_none.1 he).2
  stack_entries := tentative_returnAddresses h.stack_entries h.pc_legal
  blocked_loaded := fun _ => (completed_loaded i s).trans hl
  err_of_step := by
    rw [completed_err]
    exact h.err_of_step
  err_info := by
    rw [completed_err]
    exact h.err_info

/-! ### The errors an instruction can raise under the invariant (60_exceptions.md R241) -/

/-- A stack error, or an AddressOverflow of no legal pc within the spec's range. -/
def InstrError (e : Error) : Prop :=
  e = .stackUnderflow ∨ e = .stackOverflow ∨ ∃ a, e = .addressOverflow a ∧ ¬ LegalPc a ∧ a ≤ 0x10FE

theorem addressError_instrError {last : Nat} {e : Error} (h : addressError last = some e) (hlast : last ≤ 0x10FE) :
    InstrError e := by
  obtain ⟨hout, rfl⟩ := addressError_eq_some.1 h
  exact .inr (.inr ⟨last, rfl, by omega, hlast⟩)

theorem ownError_instrError {i : Instr} {s : State} {e : Error} (hi : i.WellFormed) (hI : s.I.toNat ≤ 0xFFF)
    (h : ownError i s = some e) : InstrError e := by
  have hlast : ∀ k, k ≤ 0xFF → s.indexed k ≤ 0x10FE := fun k hk => by
    unfold State.indexed
    omega
  cases i with
  | ret =>
    rw [ownError] at h
    split_ifs at h
    exact .inl (Option.some.inj h).symm
  | call nnn =>
    rw [ownError] at h
    split_ifs at h
    exact .inr (.inl (Option.some.inj h).symm)
  | drw x y n =>
    have hn : n < 16 := of_decide_eq_true hi
    rw [ownError] at h
    split_ifs at h
    exact addressError_instrError h (hlast _ (by omega))
  | addI x => exact addressError_instrError h (hlast _ (by have := (s.v x).isLt; omega))
  | ldBcd x => exact addressError_instrError h (hlast _ (by decide))
  | storeRegs x | loadRegs x => exact addressError_instrError h (hlast _ (by omega))
  | _ => cases h

theorem skipTarget_le {s : State} (hpc : s.pc.toNat ≤ 0xFFE) (c : Bool) : skipTarget s c ≤ 0x10FE := by
  unfold skipTarget
  split_ifs <;> omega

theorem returnTarget_le {s : State} (h : ReturnAddresses s) : returnTarget s ≤ 0x10FE := by
  unfold returnTarget
  split_ifs with hsp
  · have htop := h ⟨s.sp.val - 1, by omega⟩ (by simp only; omega)
    rw [s.topOfStack_eq_getElem (k := ⟨s.sp.val - 1, by omega⟩) (by simp only; omega) hsp]
    omega
  · omega

theorem nextPc_le {i : Instr} {s : State} (h : Inv s) : nextPc i s ≤ 0x10FE := by
  obtain ⟨-, -, hpc⟩ := h.pc_legal
  cases i with
  | ret => exact returnTarget_le h.stack_entries
  | jp nnn | call nnn =>
    rw [nextPc, addrTarget]
    omega
  | jpV0 nnn =>
    have := (s.v reg0).isLt
    rw [nextPc, addrTarget]
    omega
  | seByte | sneByte | seReg | sneReg | skp | sknp => exact skipTarget_le hpc _
  | _ =>
    change s.pc.toNat + 2 ≤ 0x10FE
    omega

theorem execError_instrError {i : Instr} {s : State} {e : Error} (hi : i.WellFormed) (h : Inv s)
    (he : execError i s = some e) : InstrError e := by
  rcases execError_eq_some.1 he with hown | ⟨-, hpc, rfl⟩
  · exact ownError_instrError hi h.index_in_memory hown
  · exact .inr (.inr ⟨_, rfl, hpc, nextPc_le h⟩)

theorem AtPc.wellFormed {s : State} {i : Instr} (h : AtPc s i) : i.WellFormed := (decodeWord_reads h.2).1

/-- The errors of a STEP under the invariant: never LOAD's, and with a payload of 16 bits. -/
theorem StepError.payload {s : State} {e : Error} (h : StepError s e) (hinv : Inv s) :
    (∀ n, e ≠ .programTooLarge n) ∧ e.info < 65536 := by
  cases h with
  | empty => exact ⟨nofun, by decide⟩
  | @unknown op => exact ⟨nofun, op.isLt⟩
  | instr _ hat he =>
    rcases execError_instrError hat.wellFormed hinv.decay he with rfl | rfl | ⟨a, rfl, -, ha⟩
    · exact ⟨nofun, by decide⟩
    · exact ⟨nofun, by decide⟩
    · refine ⟨nofun, ?_⟩
      rw [Error.info]
      omega

/-- A STEP keeps the invariant, whichever of its branches it takes. -/
theorem Inv.step {s t : State} (h : Inv s) (hstep : step s = .next t) : Inv t := by
  rcases step_inversion hstep with ⟨-, -, rfl⟩ | ⟨e, -, hraise, rfl⟩ | ⟨-, -, -, rfl⟩ | ⟨i, hrun, -, he, rfl⟩
  · exact h.takeInput
  · obtain ⟨hload, hinfo⟩ := hraise.payload h
    exact (h.raise hload hinfo).takeInput
  · exact h.pollKey.takeInput
  · exact (h.decay.completed hrun.2.1 he).takeInput

/-- Settles O12, branch by branch of the STEP; an instruction that completes keeps it by `Inv.completed`. -/
theorem stepKeepsInv : Obligations.StepKeepsInv := by
  unfold Obligations.StepKeepsInv
  exact fun s t h hstep => h.step hstep

/-- Settles O15: under the invariant the word at pc lies in memory. -/
theorem stepNeverStopsUnderInv : Obligations.StepNeverStopsUnderInv := by
  unfold Obligations.StepNeverStopsUnderInv
  intro s h
  obtain ⟨-, -, hpc⟩ := h.pc_legal
  exact step_answers (by omega)

/-- Settles O16: only an instruction raises AddressOverflow, and its payloads are in range. -/
theorem addressOverflowPayloads : Obligations.AddressOverflowPayloads := by
  unfold Obligations.AddressOverflowPayloads
  intro s t a hinv herr hstep ht
  have range {e : Error} (he : InstrError e) (hea : e = .addressOverflow a) : ¬ LegalPc a ∧ a ≤ 0x10FE := by
    subst hea
    simpa [InstrError] using he
  rcases step_inversion hstep with ⟨e, he, -⟩ | ⟨e, -, hraise, rfl⟩ | ⟨-, -, -, rfl⟩ | ⟨i, -, -, -, rfl⟩
  · rw [herr] at he
    cases he
  · have hea : e = .addressOverflow a := Option.some.inj ht
    cases hraise with
    | empty => cases hea
    | unknown => cases hea
    | instr _ hat he => exact range (execError_instrError hat.wellFormed hinv.decay he) hea
  · rw [State.takeInput_err, pollKey_err, herr] at ht
    cases ht
  · rw [State.takeInput_err, completed_err, State.decay_err, herr] at ht
    cases ht

/-! ### The invariant over the other transactions (40_step_cycle.md R121, R134) -/

theorem loadedWith_inv (s : State) {program : List Byte} (h : program.length ≤ 3584) : Inv (s.loadedWith program) where
  mem_canonical := Memory.wf_writeAll s.config program [] progBase (Memory.wf_nil _) (by
    simp only [progBase, memTop]
    omega)
  index_in_memory := by
    change (0 : Word).toNat ≤ 0xFFF
    decide
  pc_legal := by
    change LegalPc (0x200 : Word).toNat
    decide
  stack_entries := fun k hk => absurd hk (Nat.not_lt_zero _)
  blocked_loaded := fun hb => by cases hb
  err_of_step := fun n he => by cases he
  err_info := fun e he => by cases he

theorem powerOn_inv (s : State) : Inv s.powerOn := by
  rw [powerOn_eq_loadedWith]
  exact loadedWith_inv s (Nat.zero_le _)

theorem reset_eq_powerOn : State.reset = State.reset.powerOn := rfl

/-- Settles O13: power-on is a LOAD of no bytes, and the reset state is its own power-on. -/
theorem resetMeetsInv : Obligations.ResetMeetsInv := by
  unfold Obligations.ResetMeetsInv
  refine ⟨⟨?_, rfl, rfl⟩, fun s => ⟨powerOn_inv s, rfl, rfl⟩⟩
  rw [reset_eq_powerOn]
  exact powerOn_inv State.reset

/-- A LOAD keeps the invariant, accepted or refused. -/
theorem Inv.load {s : State} (h : Inv s) (program : List Byte) : Inv (load program s).1 := by
  by_cases hlen : program.length ≤ 3584
  · rw [load_accepted s program hlen]
    exact loadedWith_inv s hlen
  · rw [load_refused s program (by omega)]
    exact h

/-- Settles O14: an accepted program fits in memory, a refused one changes nothing. -/
theorem loadKeepsInv : Obligations.LoadKeepsInv := by
  unfold Obligations.LoadKeepsInv
  exact fun s program h => h.load program

/-- A STEP transaction that answers is a STEP on the given inputs, with the response read from the state it leaves. -/
theorem transact_step_cases {s t : State} {inp : StepInput} {r : Response} (h : transact (.step inp) s = .next (t, r)) :
    stepWith inp s = .next t ∧ r = stepResponse t := by
  unfold transact at h
  simp only at h
  split at h
  · cases h
    exact ⟨‹_›, rfl⟩
  · cases h
  · cases h

/-- Settles O56, transaction by transaction. -/
theorem transactionsKeepInv : Obligations.TransactionsKeepInv := by
  unfold Obligations.TransactionsKeepInv
  intro s t a r hinv h
  cases a with
  | reset =>
    cases h
    exact powerOn_inv s
  | load program =>
    have ht : load program s = (t, r) := Host.Outcome.next.inj h
    have := hinv.load program
    rwa [ht] at this
  | step inp => exact (hinv.withHost _).step (transact_step_cases h).1
  | fbread =>
    cases h
    exact hinv

end Sys2Proof.Machine

namespace Sys2Proof.Machine

/-! ### What no instruction sees (45_timers.md R215; 40_step_cycle.md R122) -/

/-- The sound timer and its reference. -/
def State.sound (s : State) : Byte × Nat := (s.ST, s.stRef)

/-- `s` with another sound timer and other inputs to come. -/
def State.disguise (s : State) (snd : Byte × Nat) (h : HostSide) : State :=
  { s with ST := snd.1, stRef := snd.2, host := h }

/-- What the host has lined up after a STEP. -/
def HostSide.taken (h : HostSide) : HostSide := { inputs := h.inputs.tail, served := h.served + 1 }

theorem disguise_self (s : State) : s.disguise s.sound s.host = s := rfl

theorem disguise_takeInput (s : State) (snd : Byte × Nat) (h : HostSide) :
    (s.disguise snd h).takeInput = s.takeInput.disguise snd h.taken := rfl

/-- The sound timer an instruction leaves, where it stood at `snd`. -/
def soundAfter (s : State) (snd : Byte × Nat) : Instr → Byte × Nat
  | .ldStVx x => (s.v x, s.input.now)
  | _ => snd

theorem soundAfter_sound (i : Instr) (s : State) : soundAfter s s.sound i = (tentative i s).sound := by
  have hframe := tentative_frame i s .sound
  cases i with
  | ldStVx x => rfl
  | _ =>
    obtain ⟨hST, hRef⟩ := hframe (by simp [writtenParts])
    exact (Prod.ext hST hRef).symm

theorem ownError_disguise (i : Instr) (s : State) (snd : Byte × Nat) (h : HostSide) :
    ownError i (s.disguise snd h) = ownError i s := by
  cases i <;> rfl

/-- The store loop stores the same bytes in the disguised state, from any state under way. -/
theorem storeFold_disguise (s : State) (snd : Byte × Nat) (h : HostSide) : ∀ (rs : List Reg) (t : State),
    rs.foldl (fun t i => t.setByte (s.indexed i.val) (s.v i)) (t.disguise snd h) =
      (rs.foldl (fun t i => t.setByte (s.indexed i.val) (s.v i)) t).disguise snd h
  | [], _ => rfl
  | i :: rs, t => storeFold_disguise s snd h rs (t.setByte (s.indexed i.val) (s.v i))

/-- The load loop loads the same bytes in the disguised state, from any state under way. -/
theorem loadFold_disguise (s : State) (snd : Byte × Nat) (h : HostSide) : ∀ (rs : List Reg) (t : State),
    rs.foldl (fun t i => t.setV i (s.byte (s.indexed i.val))) (t.disguise snd h) =
      (rs.foldl (fun t i => t.setV i (s.byte (s.indexed i.val))) t).disguise snd h
  | [], _ => rfl
  | i :: rs, t => loadFold_disguise s snd h rs (t.setV i (s.byte (s.indexed i.val)))

theorem pushIfRoom_disguise (s : State) (snd : Byte × Nat) (h : HostSide) (a : Word) :
    (s.disguise snd h).pushIfRoom a = (s.pushIfRoom a).disguise snd h := by
  by_cases hroom : s.sp.val < 16
  · rw [State.pushIfRoom_room a hroom, State.pushIfRoom_room (s := s.disguise snd h) a hroom]
    rfl
  · rw [State.pushIfRoom_full a hroom, State.pushIfRoom_full (s := s.disguise snd h) a hroom]

section
variable {s : State} {snd : Byte × Nat} {h : HostSide} (hkeys : (s.disguise snd h).input.keys = s.input.keys)
include hkeys

theorem nextPc_disguise (i : Instr) : nextPc i (s.disguise snd h) = nextPc i s := by
  cases i with
  | skp x | sknp x =>
    rw [nextPc, nextPc, hkeys]
    rfl
  | _ => rfl

theorem execError_disguise (i : Instr) : execError i (s.disguise snd h) = execError i s := by
  rw [execError, execError, ownError_disguise, nextPc_disguise hkeys]

theorem pollKey_disguise : (s.disguise snd h).pollKey = s.pollKey.disguise snd h := by
  unfold State.pollKey
  rw [hkeys]
  cases lowestKey s.input.keys <;> rfl

theorem takeKeyOrBlock_disguise (x : Reg) :
    (s.disguise snd h).takeKeyOrBlock x = (s.takeKeyOrBlock x).disguise snd h := by
  unfold State.takeKeyOrBlock
  rw [hkeys]
  cases lowestKey s.input.keys <;> rfl

variable (hnow : (s.disguise snd h).input.now = s.input.now)
include hnow

theorem tentative_disguise {i : Instr} (hrnd : ∀ x kk, i = .rnd x kk → (s.disguise snd h).input.rnd = s.input.rnd) :
    tentative i (s.disguise snd h) = (tentative i s).disguise (soundAfter s snd i) h := by
  cases i with
  | rnd x kk =>
    rw [tentative, tentative, hrnd x kk rfl]
    rfl
  | ldVxKey x => exact takeKeyOrBlock_disguise hkeys x
  | ldDtVx x | ldStVx x =>
    simp only [tentative, State.setDT, State.setST, hnow]
    rfl
  | call nnn => exact pushIfRoom_disguise s snd h _
  | storeRegs x => exact storeFold_disguise s snd h (regsThrough x) s
  | loadRegs x => exact loadFold_disguise s snd h (regsThrough x) s
  | _ => rfl

theorem completed_disguise {i : Instr} (hrnd : ∀ x kk, i = .rnd x kk → (s.disguise snd h).input.rnd = s.input.rnd) :
    completed i (s.disguise snd h) = (completed i s).disguise (soundAfter s snd i) h := by
  rw [completed, tentative_disguise hkeys hnow hrnd, nextPc_disguise hkeys]
  rfl

omit hkeys in
theorem decay_disguise :
    (s.disguise snd h).decay = s.decay.disguise (decayTimer s.config.tick s.input.now snd.1 snd.2) h := by
  unfold State.decay
  rw [hnow]
  rfl

theorem execError_decay_disguise (i : Instr) : execError i (s.disguise snd h).decay = execError i s.decay := by
  rw [decay_disguise hnow]
  exact execError_disguise (s := s.decay) hkeys i

theorem completed_decay_disguise {i : Instr}
    (hrnd : ∀ x kk, i = .rnd x kk → (s.disguise snd h).input.rnd = s.input.rnd) :
    completed i (s.disguise snd h).decay = (completed i s.decay).disguise
      (soundAfter s.decay (decayTimer s.config.tick s.input.now snd.1 snd.2) i) h := by
  rw [decay_disguise hnow]
  exact completed_disguise (s := s.decay) hkeys hnow hrnd

end

theorem pollKey_host (s : State) : s.pollKey.host = s.host := pollKey_frame s .inputs (by decide)

theorem pollKey_sound (s : State) : s.pollKey.sound = s.sound :=
  have ⟨hST, hRef⟩ := pollKey_frame s .sound (by decide)
  Prod.ext hST hRef

theorem completed_host (i : Instr) (s : State) : (completed i s).host = s.host :=
  completed_unchanged s (inputs_notMem_writtenParts i) (by decide)

/-- A STEP takes one set of inputs, whatever else it does. -/
theorem step_host {s t : State} (hstep : step s = .next t) : t.host = s.host.taken := by
  rcases step_inversion hstep with ⟨-, -, rfl⟩ | ⟨e, -, -, rfl⟩ | ⟨-, -, -, rfl⟩ | ⟨i, -, -, -, rfl⟩
  · rfl
  · rfl
  · rw [State.takeInput, pollKey_host, HostSide.taken]
  · rw [State.takeInput, completed_host, State.decay_host, HostSide.taken]

/-- A STEP of a machine disguised by its sound timer and its inputs, the keys and `now` of this STEP the same, and the
random byte where the STEP reads it: it answers the same state disguised; with the sound timer itself undisguised, so is
the one it leaves. -/
theorem step_disguise {s t : State} {snd : Byte × Nat} {h : HostSide}
    (hkeys : (s.disguise snd h).input.keys = s.input.keys) (hnow : (s.disguise snd h).input.now = s.input.now)
    (hrnd : ∀ x kk, AtPc s (.rnd x kk) → (s.disguise snd h).input.rnd = s.input.rnd) (hstep : step s = .next t) :
    ∃ snd', step (s.disguise snd h) = .next (t.disguise snd' h.taken) ∧ (snd = s.sound → snd' = t.sound) := by
  have same {u : State} (hs : step s = .next u.takeInput)
      (hd : step (s.disguise snd h) = .next (u.disguise snd h).takeInput) (hsound : u.sound = s.sound) :
      ∃ snd', step (s.disguise snd h) = .next (t.disguise snd' h.taken) ∧ (snd = s.sound → snd' = t.sound) := by
    obtain rfl := Host.Outcome.next.inj (hs.symm.trans hstep)
    exact ⟨snd, hd, fun e => e.trans hsound.symm⟩
  cases stepBranch s with
  | latched herr => exact same (step_latched herr) (step_latched herr) rfl
  | empty herr hl => exact same (step_empty herr hl) (step_empty herr hl) rfl
  | blocked herr hl hb =>
    refine same (step_blocked herr hl hb) ?_ (pollKey_sound s)
    rw [step_blocked (s := s.disguise snd h) herr hl hb, pollKey_disguise hkeys]
  | unfetched hrun hf =>
    rw [step_unfetched hrun hf] at hstep
    cases hstep
  | unknown hrun hf hd => exact same (step_unknown hrun hf hd) (step_unknown hrun hf hd) rfl
  | @raises i e hrun hat he =>
    refine same (step_of_error hrun hat he) (step_of_error hrun hat ?_) rfl
    rw [execError_decay_disguise hkeys hnow, he]
  | @completes i hrun hat he =>
    obtain rfl := Host.Outcome.next.inj ((step_of_no_error hrun hat he).symm.trans hstep)
    have he' : execError i (s.disguise snd h).decay = none := by
      rw [execError_decay_disguise hkeys hnow, he]
    refine ⟨soundAfter s.decay (decayTimer s.config.tick s.input.now snd.1 snd.2) i, ?_, ?_⟩
    · have hread : ∀ x kk, i = .rnd x kk → (s.disguise snd h).input.rnd = s.input.rnd := fun x kk hi =>
        hrnd x kk (hi ▸ hat)
      rw [step_of_no_error (s := s.disguise snd h) hrun hat he', completed_decay_disguise hkeys hnow hread,
        disguise_takeInput]
    · rintro rfl
      exact soundAfter_sound i s.decay

/-- Settles O37: the other sound timer is a disguise that leaves the inputs as they are. -/
theorem soundTimerIsInvisible : Obligations.SoundTimerIsInvisible := by
  unfold Obligations.SoundTimerIsInvisible
  intro s t b n hstep
  obtain ⟨snd, hd, -⟩ := step_disguise (snd := (b, n)) (h := s.host) rfl rfl (fun _ _ _ => rfl) hstep
  rw [← step_host hstep] at hd
  exact ⟨snd.1, snd.2, hd⟩

/-- A STEP whose machine is disguised by its inputs alone, and only by what this STEP does not read, is the same STEP. -/
theorem step_other_inputs {s : State} {h : HostSide} (htaken : h.taken = s.host.taken)
    (hkeys : (s.disguise s.sound h).input.keys = s.input.keys)
    (hnow : (s.disguise s.sound h).input.now = s.input.now) (hno : ∀ x kk, ¬ AtPc s (.rnd x kk)) :
    step (s.disguise s.sound h) = step s := by
  rcases step_answers_or_unfetched s with ⟨t, hstep⟩ | ⟨hrun, hf⟩
  · obtain ⟨snd, hd, hsnd⟩ := step_disguise hkeys hnow (fun x kk hat => absurd hat (hno x kk)) hstep
    rw [hd, hsnd rfl, htaken, ← step_host hstep, disguise_self, hstep]
  · rw [step_unfetched hrun hf]
    exact step_unfetched hrun hf

/-- Settles O38: the other random byte is a disguise by the inputs alone. -/
theorem randomByteReachesOnlyRnd : Obligations.RandomByteReachesOnlyRnd := by
  unfold Obligations.RandomByteReachesOnlyRnd
  intro s inp rest b hinputs hno
  have hinput : s.input = inp := by rw [State.input, hinputs]
  have htaken : s.host.taken = { inputs := rest, served := s.host.served + 1 } := by
    rw [HostSide.taken, hinputs, List.tail]
  exact step_other_inputs htaken.symm (congrArg StepInput.keys hinput).symm (congrArg StepInput.now hinput).symm hno

end Sys2Proof.Machine

namespace Sys2Proof.Machine

/-! ### A STEP as commit, replay and rejection (40_step_cycle.md R123, R125, R130) -/

theorem raise_takeInput_frame (s : State) (e : Error) : UnchangedBut [.error, .inputs] s (s.raise e).takeInput :=
  ((raise_frame s e).mono (by simp)).trans ((takeInput_frame _).mono (by simp))

/-- Settles O6: the commit keeps what was made without an error, and the error alone where there is one. -/
theorem stepRunsTheDecodedInstruction : Obligations.StepRunsTheDecodedInstruction := by
  unfold Obligations.StepRunsTheDecodedInstruction
  intro s i hrun hat
  have hstep := step_running hrun hat
  refine ⟨hstep, fun t hexec herr => ?_, fun t e hexec herr => ?_⟩
  · rw [hstep, hexec, commit, settle_ok s herr]
  · rw [hstep, hexec, commit, settle_raised s herr]

/-- Settles O7: of the branches of a STEP only the one that raises latches an error. -/
theorem failingStepChangesOnlyTheLatch : Obligations.FailingStepChangesOnlyTheLatch := by
  unfold Obligations.FailingStepChangesOnlyTheLatch
  intro s t e herr hstep ht
  rcases step_inversion hstep with ⟨e', he, -⟩ | ⟨e', -, -, rfl⟩ | ⟨-, -, -, rfl⟩ | ⟨i, -, -, -, rfl⟩
  · cases herr.symm.trans he
  · exact raise_takeInput_frame s e'
  · cases herr.symm.trans ((pollKey_err s).symm.trans ht)
  · cases herr.symm.trans ((completed_err i s.decay).symm.trans ht)

/-- Settles O8, by induction on the STEPs taken: each replays the latch and takes one set of inputs. -/
theorem latchedErrorIsReplayedForever : Obligations.LatchedErrorIsReplayedForever := by
  unfold Obligations.LatchedErrorIsReplayedForever
  refine fun s e hs => ⟨⟨_, step_latched hs⟩, fun t hreach => ?_⟩
  induction hreach with
  | refl => exact ⟨hs, UnchangedBut.refl _ s⟩
  | @tail t u _ hstep ih =>
    obtain ⟨ht, hframe⟩ := ih
    obtain rfl := Host.Outcome.next.inj ((step_latched ht).symm.trans hstep)
    exact ⟨ht, hframe.trans (takeInput_frame t)⟩

/-- Settles O9: the check for a program stands before fetch and before the wait for a key. -/
theorem emptyMachineRaisesNoProgramLoaded : Obligations.EmptyMachineRaisesNoProgramLoaded := by
  unfold Obligations.EmptyMachineRaisesNoProgramLoaded
  exact fun s herr hl => ⟨_, step_empty herr hl, rfl, raise_takeInput_frame s _⟩

/-- Settles O10: the decoder rejects a listed word, and the STEP raises with the word fetched. -/
theorem unknownWordRaisesUnknownOpcode : Obligations.UnknownWordRaisesUnknownOpcode := by
  unfold Obligations.UnknownWordRaisesUnknownOpcode
  intro s op hrun hpc hop hunknown
  have hstep := step_unknown hrun (fetch_some.2 ⟨hpc, hop⟩) ((unknownWord_iff op).1 hunknown)
  exact ⟨_, hstep, rfl, raise_takeInput_frame s _⟩

/-- Settles O52: the response is read from the latch. -/
theorem stepAnswersTheLatchedError : Obligations.StepAnswersTheLatchedError := by
  unfold Obligations.StepAnswersTheLatchedError
  intro s t inp r h
  obtain ⟨-, rfl⟩ := transact_step_cases h
  cases herr : t.err <;> simp [stepResponse, herr]

/-! ### Timers over a STEP (45_timers.md R211) -/

/-- A STEP that leaves no error completed its instruction. -/
theorem step_completed {s t : State} {i : Instr} (hrun : Running s) (hat : AtPc s i) (hstep : step s = .next t)
    (ht : t.err = none) : t = (completed i s.decay).takeInput := by
  cases he : execError i s.decay with
  | some e =>
    obtain rfl := Host.Outcome.next.inj ((step_of_error hrun hat he).symm.trans hstep)
    cases ht
  | none => exact (Host.Outcome.next.inj ((step_of_no_error hrun hat he).symm.trans hstep)).symm

/-- The decay of one timer in the spec's words: 1 off where `now - ref >= TICK`, which for a positive TICK needs no
truncated subtraction. -/
theorem decayTimer_law (tick : Tick) (now : Nat) (b : Byte) (ref : Nat) :
    if b ≠ 0 ∧ now - ref ≥ tick.val
    then (decayTimer tick now b ref).1.toNat + 1 = b.toNat ∧ (decayTimer tick now b ref).2 = now
    else (decayTimer tick now b ref).1 = b ∧ (decayTimer tick now b ref).2 = ref := by
  have htick := tick.property
  rcases decayTimer_cases tick now b ref with ⟨hb, hdue, h⟩ | ⟨hnot, h⟩
  · have hpos : b.toNat ≠ 0 := fun e => hb (BitVec.eq_of_toNat_eq e)
    rw [h, if_pos ⟨hb, by omega⟩, byte_sub_toNat]
    refine ⟨?_, rfl⟩
    have := b.isLt
    change (b.toNat + 256 - 1) % 256 + 1 = b.toNat
    omega
  · rw [h, if_neg fun hdue => hnot ⟨hdue.1, by omega⟩]
    exact ⟨rfl, rfl⟩

/-- Settles O34: an instruction that does not write a timer leaves it as decay did, and decay follows the law. -/
theorem timersDecayByTheirOwnReference : Obligations.TimersDecayByTheirOwnReference := by
  unfold Obligations.TimersDecayByTheirOwnReference
  intro s t i hrun hat hstep ht
  obtain rfl := step_completed hrun hat hstep ht
  refine ⟨fun hi => ?_, fun hi => ?_⟩
  · obtain ⟨hDT, hRef⟩ := completed_unchanged (p := .delay) s.decay (fun h => delay_mem_writtenParts h hi) (by decide)
    rw [State.takeInput_DT, State.takeInput_dtRef, hDT, hRef]
    exact decayTimer_law ..
  · obtain ⟨hST, hRef⟩ := completed_unchanged (p := .sound) s.decay (fun h => sound_mem_writtenParts h hi) (by decide)
    rw [State.takeInput_ST, State.takeInput_stRef, hST, hRef]
    exact decayTimer_law ..

theorem exec_ldVxDt (x : Reg) (s : State) : exec (.ldVxDt x) s = advance s (s.setV x s.DT) := rfl

theorem decay_DT_toNat (s : State) : s.decay.DT.toNat =
    if s.DT ≠ 0 ∧ s.input.now - s.dtRef ≥ s.config.tick.val then s.DT.toNat - 1 else s.DT.toNat := by
  have law := decayTimer_law s.config.tick s.input.now s.DT s.dtRef
  split_ifs at law ⊢ with hdue
  · exact Nat.eq_sub_of_add_eq law.1
  · exact congrArg BitVec.toNat law.1

/-- Settles O35: in a STEP the instruction reads the timer of the decayed state. -/
theorem delayReadSeesThisStepsDecay : Obligations.DelayReadSeesThisStepsDecay := by
  unfold Obligations.DelayReadSeesThisStepsDecay
  refine fun s x hpc => ⟨writesReg_of_exec_eq_advance hpc (exec_ldVxDt x s) rfl, fun hrun hat => ?_⟩
  have hv : (s.decay.setV x s.decay.DT).v x = s.decay.DT := s.decay.setV_v_self x _
  refine ⟨_, step_of_exec_eq_advance hrun hat hpc (exec_ldVxDt x s.decay) hrun.1, hrun.1, hv, ?_⟩
  rw [State.takeInput_v, State.setPc_v, hv, decay_DT_toNat]

/-! ### Control transfer (41_control_flow.md) -/

/-- An instruction that changes nothing but pc proceeds to its target in the sense of the claims. -/
theorem proceeds_of_exec_eq_retire {i : Instr} {s : State} {n : Nat} (h : exec i s = retire s s n) :
    Proceeds i n s :=
  ⟨fun hn => ⟨_, h.trans (retire_legal s s hn), legalPc_toNat hn, setPc_frame s _⟩,
    fun hn => raises_of_exec_eq_raise (h.trans (retire_illegal s s hn))⟩

theorem proceeds_of_exec_eq_skipIf {i : Instr} {s : State} {c : Bool} {p : Prop} [Decidable p]
    (h : exec i s = skipIf s c) (hc : c = true ↔ p) : Proceeds i (s.pc.toNat + if p then 4 else 2) s := by
  apply proceeds_of_exec_eq_retire
  simp only [h, skipIf, hc]

theorem exec_jp (nnn : BitVec 12) (s : State) : exec (.jp nnn) s = retire s s nnn.toNat := rfl

theorem exec_jpV0 (nnn : BitVec 12) (s : State) : exec (.jpV0 nnn) s = retire s s (nnn.toNat + (s.v 0).toNat) := rfl

/-- Settles O24: both jumps change nothing but pc, and the pc check decides on the target. -/
theorem jumpsGoToLegalTargetsOnly : Obligations.JumpsGoToLegalTargetsOnly := by
  unfold Obligations.JumpsGoToLegalTargetsOnly
  exact fun s nnn => ⟨proceeds_of_exec_eq_retire (exec_jp nnn s), proceeds_of_exec_eq_retire (exec_jpV0 nnn s)⟩

theorem exec_seByte (x : Reg) (kk : Byte) (s : State) :
    exec (.seByte x kk) s = skipIf s (decide (s.v x = kk)) := rfl

theorem exec_sneByte (x : Reg) (kk : Byte) (s : State) :
    exec (.sneByte x kk) s = skipIf s (decide (s.v x ≠ kk)) := rfl

theorem exec_seReg (x y : Reg) (s : State) : exec (.seReg x y) s = skipIf s (decide (s.v x = s.v y)) := rfl

theorem exec_sneReg (x y : Reg) (s : State) : exec (.sneReg x y) s = skipIf s (decide (s.v x ≠ s.v y)) := rfl

/-- Settles O25, skip by skip. -/
theorem registerSkipsPassOverOneWord : Obligations.RegisterSkipsPassOverOneWord := by
  unfold Obligations.RegisterSkipsPassOverOneWord
  exact fun s x y kk => ⟨proceeds_of_exec_eq_skipIf (exec_seByte x kk s) decide_eq_true_iff,
    proceeds_of_exec_eq_skipIf (exec_sneByte x kk s) decide_eq_true_iff,
    proceeds_of_exec_eq_skipIf (exec_seReg x y s) decide_eq_true_iff,
    proceeds_of_exec_eq_skipIf (exec_sneReg x y s) decide_eq_true_iff⟩

theorem exec_skp (x : Reg) (s : State) : exec (.skp x) s = skipIf s (pressed s.input.keys (s.v x)) := rfl

theorem exec_sknp (x : Reg) (s : State) : exec (.sknp x) s = skipIf s (!pressed s.input.keys (s.v x)) := rfl

theorem not_pressed_iff (keys : BitVec 16) (k : Byte) : (!pressed keys k) = true ↔ ¬ Down keys k := by
  rw [← pressed_iff, Bool.not_eq_true', Bool.not_eq_true]

/-- Settles O32, skip by skip. -/
theorem keySkipsTestTheSnapshot : Obligations.KeySkipsTestTheSnapshot := by
  unfold Obligations.KeySkipsTestTheSnapshot
  exact fun s x => ⟨proceeds_of_exec_eq_skipIf (exec_skp x s) (pressed_iff _ _),
    proceeds_of_exec_eq_skipIf (exec_sknp x s) (not_pressed_iff _ _)⟩

/-- Settles O31: the jump leaves pc where it is, and decay and the inputs are all that is left to change. -/
theorem jumpToSelfOnlyDecays : Obligations.JumpToSelfOnlyDecays := by
  unfold Obligations.JumpToSelfOnlyDecays
  intro s nnn hrun hat hself hpc
  rw [hself] at hpc
  have he : execError (.jp nnn) s.decay = none := execError_eq_none.2 ⟨rfl, hpc⟩
  have hstay : completed (.jp nnn) s.decay = s.decay := by
    have htarget : BitVec.ofNat 16 nnn.toNat = s.pc := by rw [← hself, BitVec.ofNat_toNat, BitVec.setWidth_eq]
    change s.decay.setPc (BitVec.ofNat 16 nnn.toNat) = s.decay
    rw [htarget]
    rfl
  refine ⟨_, step_of_no_error hrun hat he, ?_⟩
  rw [hstay]
  exact ((decay_frame s).mono (by simp)).trans ((takeInput_frame _).mono (by simp))

theorem exec_call_of_full {s : State} (nnn : BitVec 12) (h : s.sp.val = 16) :
    exec (.call nnn) s = .next (s.raise .stackOverflow) :=
  dif_neg (by omega)

theorem exec_call_of_room {s : State} (nnn : BitVec 12) (h : s.sp.val < 16) :
    exec (.call nnn) s = retire s (s.push (s.pc + 2) h) nnn.toNat :=
  dif_pos h

/-- Settles O27, by the call's own check and then the pc check on its target. -/
theorem callPushesTheReturnAddress : Obligations.CallPushesTheReturnAddress := by
  unfold Obligations.CallPushesTheReturnAddress
  refine fun s nnn => ⟨fun hfull => ?_, fun hroom htarget => ?_, fun k hk htarget => ?_⟩
  · exact raises_of_exec_eq_raise (exec_call_of_full nnn hfull)
  · exact raises_of_exec_eq_raise ((exec_call_of_room nnn hroom).trans (retire_illegal _ _ htarget))
  · have hroom : s.sp.val < 16 := by omega
    refine ⟨_, (exec_call_of_room nnn hroom).trans (retire_legal _ _ htarget), legalPc_toNat htarget, ?_, ?_,
      fun j hj => ?_, ((push_frame s _ hroom).append_pc_setPc _).mono (by simp)⟩
    · rw [State.setPc_sp, State.push_sp_val, hk]
    · simp [hk]
    · have hne : s.sp.val ≠ j.val := fun e => hj (Fin.ext (e.symm.trans hk))
      simp [Vector.getElem_set_ne, hne]

/-- Settles O28: the call leaves pc + 2 on top of the stack, and the return takes it off. -/
theorem returnUndoesCall : Obligations.ReturnUndoesCall := by
  unfold Obligations.ReturnUndoesCall
  rintro s t u nnn hroom htarget hpc hcall ⟨hstack, hsp⟩
  obtain ⟨-, -, completes⟩ := callPushesTheReturnAddress s nnn
  obtain ⟨t', hcall', -, hsp', htop, -, -⟩ := completes ⟨s.sp.val, hroom⟩ rfl htarget
  obtain rfl := Host.Outcome.next.inj (hcall'.symm.trans hcall)
  have hentry : u.stack[s.sp.val] = s.pc + 2 := by
    rw [← htop]
    simp only [hstack]
  have hreturn : (s.pc + 2).toNat = s.pc.toNat + 2 := pc_add_two_toNat (by omega)
  have hdepth : u.sp.val = s.sp.val + 1 := by rw [hsp, hsp']
  have hret := exec_ret_of_entry (s := u) (k := ⟨s.sp.val, hroom⟩) hdepth
  simp only [hentry, hreturn] at hret
  refine ⟨_, hret.trans (retire_legal _ _ hpc), legalPc_toNat hpc, Fin.ext ?_, pop_setPc_frame u _⟩
  rw [State.setPc_sp, State.pop_sp_val, hdepth, Nat.add_sub_cancel]

/-! ### The top of memory (40_step_cycle.md R129; 60_exceptions.md R249) -/

/-- An instruction that goes on passes its own check and has the next word as its target. -/
theorem goesOn_spec {i : Instr} {s : State} (h : GoesOn i s) : ownError i s = none ∧ nextPc i s = s.pc.toNat + 2 := by
  have notTaken {c : Bool} (hc : c = false) : skipTarget s c = s.pc.toNat + 2 := by rw [hc]; rfl
  cases i with
  | ret | jp | call | jpV0 => exact h.elim
  | seByte x kk | seReg x y => exact ⟨rfl, notTaken (decide_eq_false h)⟩
  | sneByte x kk | sneReg x y => exact ⟨rfl, notTaken (decide_eq_false (not_not.2 h))⟩
  | skp x => exact ⟨rfl, notTaken (Bool.eq_false_iff.2 fun hp => h ((pressed_iff _ _).1 hp))⟩
  | sknp x => exact ⟨rfl, notTaken (by rw [(pressed_iff _ _).2 h]; rfl)⟩
  | drw x y n =>
    refine ⟨?_, rfl⟩
    by_cases hn : n = 0
    · exact if_pos hn
    · have hin : s.I.toNat + n - 1 ≤ 0xFFF := h (Nat.one_le_iff_ne_zero.2 hn)
      refine (if_neg hn).trans (addressError_eq_none.2 ?_)
      rw [State.indexed]
      omega
  | addI | ldBcd | storeRegs | loadRegs => exact ⟨addressError_eq_none.2 h, rfl⟩
  | _ => exact ⟨rfl, rfl⟩

/-- Settles O29: the next word's address is 0x1000, which is no legal pc. -/
theorem sequentialInstructionAtTheTopRaises : Obligations.SequentialInstructionAtTheTopRaises := by
  unfold Obligations.SequentialInstructionAtTheTopRaises
  intro s i hpc h
  obtain ⟨hown, hnext⟩ := goesOn_spec h
  have htop : nextPc i s = 0x1000 := by
    rw [hnext, hpc]
    rfl
  have hillegal : ¬ LegalPc 0x1000 := by decide
  have he : execError i s = some (.addressOverflow 0x1000) :=
    execError_eq_some.2 (.inr ⟨hown, htop ▸ hillegal, by rw [htop]⟩)
  exact raises_of_exec_eq_raise (exec_of_error he)

/-- Settles O30: the own check raises whatever the pc check would say. -/
theorem ownCheckComesBeforeThePcCheck : Obligations.OwnCheckComesBeforeThePcCheck := by
  unfold Obligations.OwnCheckComesBeforeThePcCheck
  refine ⟨fun s nnn hfull _ => raises_of_exec_eq_raise (exec_call_of_full nnn hfull), fun s x _ hout => ⟨?_, ?_⟩⟩
  · exact raises_of_exec_eq_withinMemory (exec_storeRegs x s) hout
  · exact raises_of_exec_eq_withinMemory (exec_loadRegs x s) hout

end Sys2Proof.Machine

namespace Sys2Proof.Machine

/-! ### FX0A and the wait for a key (44_keypad.md R203, R204) -/

theorem exec_ldVxKey (x : Reg) (s : State) : exec (.ldVxKey x) s = advance s (s.takeKeyOrBlock x) :=
  exec_eq (.ldVxKey x) s

theorem takeKeyOrBlock_of_lowestDown {s : State} {k : Reg} (x : Reg) (h : LowestDown s.input.keys k) :
    s.takeKeyOrBlock x = s.setV x (keyByte k) := by
  rw [State.takeKeyOrBlock, (lowestKey_some _ k).2 h, Option.elim_some]

theorem takeKeyOrBlock_of_noneDown {s : State} (x : Reg) (h : NoneDown s.input.keys) :
    s.takeKeyOrBlock x = s.block x := by
  rw [State.takeKeyOrBlock, (lowestKey_none _).2 h, Option.elim_none]

theorem exec_ldVxKey_of_lowestDown {s : State} {k : Reg} (x : Reg) (h : LowestDown s.input.keys k) :
    exec (.ldVxKey x) s = advance s (s.setV x (keyByte k)) := by
  rw [exec_ldVxKey, takeKeyOrBlock_of_lowestDown x h]

theorem exec_ldVxKey_of_noneDown {s : State} (x : Reg) (h : NoneDown s.input.keys) :
    exec (.ldVxKey x) s = advance s (s.block x) := by
  rw [exec_ldVxKey, takeKeyOrBlock_of_noneDown x h]

/-- Settles O33, by whether a key is down. -/
theorem waitForKeyTakesAKeyOrBlocks : Obligations.WaitForKeyTakesAKeyOrBlocks := by
  unfold Obligations.WaitForKeyTakesAKeyOrBlocks
  refine fun s x hpc => ⟨fun k hk => ?_, fun hnone => ?_⟩
  · exact writesReg_of_exec_eq_advance hpc (exec_ldVxKey_of_lowestDown x hk) (keyByte_toNat k)
  · exact ⟨_, (exec_ldVxKey_of_noneDown x hnone).trans (advance_legal s _ hpc), rfl, rfl, legalPc_toNat hpc,
      (block_frame s x).append_pc_setPc _⟩

theorem pollKey_of_lowestDown {s : State} {k : Reg} (h : LowestDown s.input.keys k) :
    s.pollKey = (s.setV s.keyReg (keyByte k)).unblock := by
  rw [State.pollKey, (lowestKey_some _ k).2 h]

theorem pollKey_of_noneDown {s : State} (h : NoneDown s.input.keys) : s.pollKey = s := by
  rw [State.pollKey, (lowestKey_none _).2 h]

/-- A STEP of a Running machine at any instruction but FX0A leaves it Running, whether it raises or completes. -/
theorem step_blocked_of_not_ldVxKey {s t : State} {i : Instr} (hrun : Running s) (hat : AtPc s i)
    (hi : ∀ x, i ≠ .ldVxKey x) (hstep : step s = .next t) : t.blocked = false := by
  cases he : execError i s.decay with
  | some e =>
    obtain rfl := Host.Outcome.next.inj ((step_of_error hrun hat he).symm.trans hstep)
    exact hrun.2.2
  | none =>
    obtain rfl := Host.Outcome.next.inj ((step_of_no_error hrun hat he).symm.trans hstep)
    obtain ⟨hblocked, -⟩ := completed_unchanged (p := .wait) s.decay (fun h => wait_mem_writtenParts h hi) (by decide)
    exact hblocked.trans hrun.2.2

/-! ### What LOAD and RESET leave (10_state.md R43) -/

theorem loadedWith_program_byte (s : State) {program : List Byte} {k : Nat} (h : k < program.length) :
    (s.loadedWith program).byte (0x200 + k) = program[k] := by
  rw [loadedWith_byte, dif_pos ⟨Nat.le_add_right .., by omega⟩]
  simp only [Nat.add_sub_cancel_left]

theorem loadedWith_other_byte (s : State) {program : List Byte} {a : Nat}
    (h : a < 0x200 ∨ 0x200 + program.length ≤ a) :
    (s.loadedWith program).byte a = Memory.unlisted s.config a := by
  rw [loadedWith_byte, dif_neg (by omega)]

theorem unlisted_font (c : Config) {a : Nat} (h : a < 80) : Memory.unlisted c a = c.fontset[a] := dif_pos h

theorem unlisted_zero (c : Config) {a : Nat} (h : 80 ≤ a) : Memory.unlisted c a = 0 := dif_neg (by omega)

/-- LOAD leaves a fresh machine, whatever the state before. -/
theorem freshMachine_loadedWith (s : State) (program : List Byte) :
    FreshMachine s program (s.loadedWith program) where
  program_bytes k h := loadedWith_program_byte s h
  font_bytes a h := by rw [loadedWith_other_byte s (.inl (by omega)), unlisted_font s.config h]
  zero_bytes a h hout := by rw [loadedWith_other_byte s hout, unlisted_zero s.config h]
  registers r := Vector.getElem_replicate ..
  index := rfl
  entry_point := rfl
  no_calls := ⟨rfl, fun k => Vector.getElem_replicate ..⟩
  timers := ⟨rfl, rfl, rfl, rfl⟩
  clear_screen x y := FrameBuf.cell_clear x y
  not_waiting := ⟨rfl, rfl⟩
  no_error := rfl
  is_loaded := decide_eq_true_iff
  model_fields := ⟨rfl, rfl⟩

theorem freshMachine_powerOn (s : State) : FreshMachine s [] s.powerOn := by
  rw [powerOn_eq_loadedWith]
  exact freshMachine_loadedWith s []

/-- Settles O50: the program is accepted, and what it leaves is a fresh machine. -/
theorem loadLeavesAFreshMachine : Obligations.LoadLeavesAFreshMachine := by
  unfold Obligations.LoadLeavesAFreshMachine
  intro s program h
  refine ⟨_, ?_, freshMachine_loadedWith s program⟩
  rw [transact_load, load_accepted s program h]

theorem transact_reset (s : State) : transact .reset s = .next (s.powerOn, .ok) := rfl

/-- Settles O51: RESET is a LOAD of no bytes. -/
theorem resetLeavesTheEmptyMachine : Obligations.ResetLeavesTheEmptyMachine := by
  unfold Obligations.ResetLeavesTheEmptyMachine
  exact fun s => ⟨_, transact_reset s, freshMachine_powerOn s⟩

/-- Settles O54: the fresh machine's first two program bytes are the word at its pc. -/
theorem firstWordAfterLoadIsTheProgramsFirst : Obligations.FirstWordAfterLoadIsTheProgramsFirst := by
  unfold Obligations.FirstWordAfterLoadIsTheProgramsFirst
  intro s t hi lo rest hlen hload
  obtain rfl : s.loadedWith (hi :: lo :: rest) = t := by
    rw [load_accepted s _ hlen] at hload
    exact congrArg Prod.fst hload
  have hfresh := freshMachine_loadedWith s (hi :: lo :: rest)
  have hloaded := hfresh.is_loaded.2 (Nat.le_add_left ..)
  refine ⟨⟨hfresh.no_error, hloaded, hfresh.not_waiting.1⟩, hfresh.entry_point, fetch_some.2 ?_⟩
  have hhi : (s.loadedWith (hi :: lo :: rest)).byte 0x200 = hi := hfresh.program_bytes 0 (Nat.zero_lt_succ _)
  have hlo : (s.loadedWith (hi :: lo :: rest)).byte 0x201 = lo := hfresh.program_bytes 1 (by simp)
  rw [hfresh.entry_point]
  exact ⟨by decide, (congrArg₂ wordOfBytes hhi hlo).symm⟩

/-- Settles O11, row by row. -/
theorem blockingStateMachine : Obligations.BlockingStateMachine := by
  unfold Obligations.BlockingStateMachine
  refine ⟨fun s i hrun hat hi => ?other, fun s x k hrun hat hpc hk => ?keyDown, fun s x hrun hat hpc hnone => ?noKey,
    fun s herr hl hb hnone => ?waitOn, fun s k herr hl hb hk => ?waitOver, fun s t e herr hstep ht => ?raises,
    fun s program h => ?load, freshMachine_powerOn⟩
  case other => exact ⟨step_running hrun hat, fun t => step_blocked_of_not_ldVxKey hrun hat hi⟩
  case keyDown =>
    refine ⟨_, step_of_exec_eq_advance hrun hat hpc (exec_ldVxKey_of_lowestDown x hk) hrun.1, ?_, legalPc_toNat hpc,
      hrun.2.2⟩
    rw [State.takeInput_v, State.setPc_v, State.setV_v_self, keyByte_toNat]
  case noKey =>
    exact ⟨_, step_of_exec_eq_advance hrun hat hpc (exec_ldVxKey_of_noneDown x hnone) hrun.1, rfl, legalPc_toNat hpc,
      rfl⟩
  case waitOn =>
    refine ⟨_, step_blocked herr hl hb, ?_⟩
    rw [pollKey_of_noneDown hnone]
    exact takeInput_frame s
  case waitOver =>
    have hframe := ((pollKey_frame s).mono (more := [.regs, .wait, .inputs]) (by simp)).trans
      ((takeInput_frame _).mono (by simp))
    rw [pollKey_of_lowestDown hk] at hframe
    refine ⟨_, step_blocked herr hl hb, ?_⟩
    rw [pollKey_of_lowestDown hk]
    refine ⟨?_, fun r hr => ?_, rfl, rfl, hframe⟩
    · rw [State.takeInput_v, State.unblock_v, State.setV_v_self, keyByte_toNat]
    · rw [State.takeInput_v, State.unblock_v, s.setV_v_other _ hr]
  case raises =>
    exact (failingStepChangesOnlyTheLatch s t e herr hstep ht .wait (by decide)).1
  case load =>
    rw [load_accepted s program h]
    exact freshMachine_loadedWith s program

/-! ### FBREAD (20_memory.md R74) -/

/-- The cells of rows laid end to end: every row before the one read takes 64 places. -/
theorem flatMap_toList_getElem? {x : Nat} (hx : x < 64) : ∀ (rows : List (Vector Bool 64)) (y : Nat),
    (rows.flatMap fun row => row.toList)[64 * y + x]? = rows[y]?.map fun row => row[x]
  | [], y => by simp
  | row :: rows, 0 => by
    rw [List.flatMap_cons, List.getElem?_append_left (by simpa using hx)]
    simp [hx]
  | row :: rows, y + 1 => by
    rw [List.flatMap_cons, List.getElem?_append_right (by simp; omega), List.getElem?_cons_succ,
      ← flatMap_toList_getElem? hx rows y]
    congr 1
    simp
    omega

theorem fbread_length (s : State) : (fbread s).length = 2048 := by
  simp [fbread, List.length_flatMap]

theorem fbread_getElem? (s : State) {x y : Nat} (hx : x < 64) (hy : y < 32) :
    (fbread s)[64 * y + x]? = some (s.FB.cell x y) := by
  rw [fbread, flatMap_toList_getElem? hx, FrameBuf.cell, dif_pos ⟨hy, hx⟩]
  simp [hy]

theorem transact_fbread (s : State) : transact .fbread s = .next (s, .cells (fbread s)) := rfl

/-- Settles O55: the answer is the rows laid end to end. -/
theorem framebufferIsReadRowMajor : Obligations.FramebufferIsReadRowMajor := by
  unfold Obligations.FramebufferIsReadRowMajor
  exact fun s => ⟨_, transact_fbread s, fbread_length s, fun x y hx hy => fbread_getElem? s hx hy⟩

/-! ### Logic and random (42_load_alu.md R164 to R166, R172) -/

theorem exec_orReg (x y : Reg) (s : State) : exec (.orReg x y) s = advance s (s.setV x (s.v x ||| s.v y)) := rfl

theorem exec_andReg (x y : Reg) (s : State) : exec (.andReg x y) s = advance s (s.setV x (s.v x &&& s.v y)) := rfl

theorem exec_xorReg (x y : Reg) (s : State) : exec (.xorReg x y) s = advance s (s.setV x (s.v x ^^^ s.v y)) := rfl

theorem exec_rnd (x : Reg) (kk : Byte) (s : State) :
    exec (.rnd x kk) s = advance s (s.setV x (s.input.rnd &&& kk)) := rfl

/-- Settles O20, instruction by instruction. -/
theorem logicWritesVxAndNoFlag : Obligations.LogicWritesVxAndNoFlag := by
  unfold Obligations.LogicWritesVxAndNoFlag
  refine fun s x y hpc => ⟨?_, ?_, ?_⟩
  · exact writesReg_of_exec_eq_advance hpc (exec_orReg x y s) (BitVec.toNat_or ..)
  · exact writesReg_of_exec_eq_advance hpc (exec_andReg x y s) (BitVec.toNat_and ..)
  · exact writesReg_of_exec_eq_advance hpc (exec_xorReg x y s) (BitVec.toNat_xor ..)

/-- Settles O23: the instruction goes on with Vx written from this STEP's inputs. -/
theorem randomMasksThisStepsByte : Obligations.RandomMasksThisStepsByte := by
  unfold Obligations.RandomMasksThisStepsByte
  refine fun s x kk hpc => ⟨writesReg_of_exec_eq_advance hpc (exec_rnd x kk s) (BitVec.toNat_and ..),
    fun inp rest h => ?_⟩
  rw [State.input, h]

/-! ### Index arithmetic (46_index_memory.md R221, R222) -/

theorem exec_addI (x : Reg) (s : State) : exec (.addI x) s = withinMemory s (s.indexed (s.v x).toNat)
    (advance s (s.setI (BitVec.ofNat 16 (s.indexed (s.v x).toNat)))) := rfl

theorem exec_ldFont (x : Reg) (s : State) : exec (.ldFont x) s = advance s (s.setI (glyphAddr (s.v x))) := rfl

/-- Settles O40, by the own check of FX1E. -/
theorem indexArithmetic : Obligations.IndexArithmetic := by
  unfold Obligations.IndexArithmetic
  refine fun s x => ⟨raises_of_exec_eq_withinMemory (exec_addI x s), fun hin hpc => ?_, fun hpc => ?_⟩
  · exact writesIndex_of_exec_eq_advance hpc ((exec_addI x s).trans (withinMemory_in s _ hin)) (indexed_word_toNat hin)
  · exact writesIndex_of_exec_eq_advance hpc (exec_ldFont x s) (glyphAddr_toNat _)

/-! ### Stored registers read back (20_memory.md R73; 46_index_memory.md R224, R225) -/

/-- Settles O44: the load reads the addresses the store wrote, since the store keeps `I`. -/
theorem storeThenLoadRestoresRegisters : Obligations.StoreThenLoadRestoresRegisters := by
  unfold Obligations.StoreThenLoadRestoresRegisters
  intro s t u x hin hpc hpcu hstore hmem hindex
  obtain ⟨t', hstore', hstored, -, -, hframe⟩ := (storeRegistersWritesTheirRange s x).2 hin hpc
  obtain rfl := Host.Outcome.next.inj (hstore'.symm.trans hstore)
  have hI : u.I = s.I := Eq.trans hindex (hframe .index (by decide))
  have hindexed : ∀ k, u.indexed k = s.indexed k := fun k => by rw [State.indexed, State.indexed, hI]
  obtain ⟨w, hload, hloaded, -⟩ := (loadRegistersReadsTheirRange u x).2 (hindexed x.val ▸ hin) hpcu
  refine ⟨w, hload, fun r hr => ?_⟩
  rw [hloaded r hr, hindexed, hmem, hstored r hr]

/-- Settles O45: the STEP commits the store loop, and the next pc is where it stored V0 and V1. -/
theorem storedCodeIsFetchedNext : Obligations.StoredCodeIsFetchedNext := by
  unfold Obligations.StoredCodeIsFetchedNext
  intro s x hrun hat hx hI hin hpc
  have hexec := (exec_storeRegs x s.decay).trans (withinMemory_in s.decay _ hin)
  have hframe := storeLoop_frame s.decay (regsThrough x)
  have herr : (storeLoop s.decay (regsThrough x)).err = none := Eq.trans (hframe .error (by decide)) hrun.1
  have hloaded : (storeLoop s.decay (regsThrough x)).loaded = true :=
    Eq.trans (hframe .loaded (by decide)) hrun.2.1
  have hblocked : (storeLoop s.decay (regsThrough x)).blocked = false :=
    Eq.trans (hframe .wait (by decide)).1 hrun.2.2
  have hhi : (storeLoop s.decay (regsThrough x)).byte (s.pc.toNat + 2) = s.v 0 := by
    rw [← hI]
    exact storeLoop_regsThrough_stored s.decay (r := 0) (Fin.zero_le x)
  have hlo : (storeLoop s.decay (regsThrough x)).byte (s.pc.toNat + 2 + 1) = s.v 1 := by
    rw [← hI]
    exact storeLoop_regsThrough_stored s.decay (r := 1) hx
  refine ⟨_, step_of_exec_eq_advance hrun hat hpc hexec herr, ⟨herr, hloaded, hblocked⟩, fetch_some.2 ?_⟩
  rw [State.takeInput_pc, State.setPc_pc, legalPc_toNat hpc, State.takeInput_byte, State.takeInput_byte,
    State.setPc_byte, State.setPc_byte, hhi, hlo]
  exact ⟨by omega, rfl⟩

/-! ### DXYN (43_display.md R191 to R194) -/

theorem exec_drw_of_beyond {s : State} {n : Nat} (x y : Reg) (hn : 1 ≤ n) (hout : s.indexed (n - 1) > 0xFFF) :
    exec (.drw x y n) s = .next (s.raise (.addressOverflow (s.indexed (n - 1)))) := by
  have hown : ownError (.drw x y n) s = some (.addressOverflow (s.indexed (n - 1))) :=
    (if_neg (by omega)).trans (addressError_eq_some.2 ⟨hout, rfl⟩)
  rw [exec_eq, hown, Option.elim_some]

theorem exec_drw_of_fits {s : State} {n : Nat} (x y : Reg) (hin : 1 ≤ n → s.I.toNat + n - 1 ≤ 0xFFF) :
    exec (.drw x y n) s = advance s ((s.setFB (s.sprite x y n).1).setFlag (s.sprite x y n).2) := by
  obtain ⟨hown, -⟩ := goesOn_spec (i := .drw x y n) hin
  rw [exec_eq, hown, Option.elim_none]
  rfl

/-- Settles O48: the own check covers the last row, clipped or not. -/
theorem drawBeyondMemoryRaises : Obligations.DrawBeyondMemoryRaises := by
  unfold Obligations.DrawBeyondMemoryRaises
  intro s x y n hn hout
  have hlast : s.I.toNat + n - 1 = s.indexed (n - 1) := by
    rw [State.indexed]
    omega
  rw [hlast] at hout ⊢
  exact raises_of_exec_eq_raise (exec_drw_of_beyond x y hn hout)

theorem sprite_cell (s : State) (x y : Reg) (n cx cy : Nat) : (s.sprite x y n).1.cell cx cy =
    (s.FB.cell cx cy ^^ spriteBit s ((s.v x).toNat % 64) ((s.v y).toNat % 32) n cx cy) :=
  (drawSprite_spec s _ _ n).1 cx cy

theorem sprite_collides (s : State) (x y : Reg) (n : Nat) : (s.sprite x y n).2 = true ↔
    ∃ cx cy, spriteBit s ((s.v x).toNat % 64) ((s.v y).toNat % 32) n cx cy = true ∧ s.FB.cell cx cy = true :=
  (drawSprite_spec s _ _ n).2

/-- Settles O47: the instruction goes on with the sprite drawn, which is pixelwise by `drawSprite_spec`. -/
theorem drawIsPixelwiseXor : Obligations.DrawIsPixelwiseXor := by
  unfold Obligations.DrawIsPixelwiseXor
  intro s x y n hin hpc
  have hflag : ((s.setFB (s.sprite x y n).1).setFlag (s.sprite x y n).2).v 15 = flagByte (s.sprite x y n).2 :=
    State.setV_v_self _ regF _
  refine ⟨_, (exec_drw_of_fits x y hin).trans (advance_legal s _ hpc), sprite_cell s x y n, fun hmeet => ?_,
    fun hclear => ?_, fun r hr => ?_, legalPc_toNat hpc, ?_⟩
  · rw [State.setPc_v, hflag, (sprite_collides s x y n).2 hmeet]
    rfl
  · have hnot : (s.sprite x y n).2 = false := Bool.eq_false_iff.2 fun h => by
      obtain ⟨cx, cy, hbit, hcell⟩ := (sprite_collides s x y n).1 h
      rw [hclear cx cy hbit] at hcell
      cases hcell
    rw [State.setPc_v, hflag, hnot]
    rfl
  · exact tentative_v_of_not_mayWrite (i := .drw x y n) s hr
  · exact (completed_frame (.drw x y n) s).mono (by simp [writtenParts])

/-- The bits of a sprite are those of memory at `I`, whatever else two states differ in. -/
theorem spriteBit_congr {s t : State} (hI : t.I = s.I) (hbyte : ∀ a, t.byte a = s.byte a) (x0 y0 n cx cy : Nat) :
    spriteBit t x0 y0 n cx cy = spriteBit s x0 y0 n cx cy := by
  rw [spriteBit, spriteBit, hI, hbyte]

/-- Settles O49, by O47 of both draws: the second XORs in the same bits, and meets the cells the first one set. -/
theorem drawingTwiceRestoresTheScreen : Obligations.DrawingTwiceRestoresTheScreen := by
  unfold Obligations.DrawingTwiceRestoresTheScreen
  intro s t x y n hx hy hin hpc hdraw
  obtain ⟨t', hdraw', hcell, -, -, hregs, -, hframe⟩ := drawIsPixelwiseXor s x y n hin hpc
  obtain rfl := Host.Outcome.next.inj (hdraw'.symm.trans hdraw)
  have hI : t'.I = s.I := hframe .index (by decide)
  have hbit (x0 y0 cx cy : Nat) : spriteBit (t'.setPc s.pc) x0 y0 n cx cy = spriteBit s x0 y0 n cx cy :=
    spriteBit_congr hI (hframe .memory (by decide)) x0 y0 n cx cy
  obtain ⟨u, hdraw2, hcell2, hmeet, hclear, -⟩ := drawIsPixelwiseXor (t'.setPc s.pc) x y n (hI ▸ hin) hpc
  simp only [State.setPc_v, State.setPc_FB, hregs x hx, hregs y hy, hbit, hcell] at hcell2 hmeet hclear
  refine ⟨u, hdraw2, fun cx cy => ?_, fun hu => ?_, fun ⟨cx, cy, hset, hwas⟩ => ?_⟩
  · rw [hcell2, Bool.xor_assoc, Bool.xor_self, Bool.xor_false]
  · by_contra hno
    have hzero := hclear fun cx cy hset => by
      have hwas : s.FB.cell cx cy ≠ false := fun hwas => hno ⟨cx, cy, hset, hwas⟩
      rw [hset, Bool.eq_true_of_not_eq_false hwas]
      rfl
    rw [hzero] at hu
    cases hu
  · exact hmeet ⟨cx, cy, hset, by rw [hset, hwas]; rfl⟩

end Sys2Proof.Machine
